-- ==== Sys2Proof/Word.lean ====
section
/-!
DEFINITION. The word types of the core and the names of its registers.
-/

namespace Sys2Proof

/-- A value of `pc`, `I`, a stack slot or an instruction word (10_state.md R34, R38, R39; 30_encoding.md R80). -/
abbrev Word := BitVec 16

/-- A memory byte, a general register or a timer (10_state.md R31, R42, R45). -/
abbrev Byte := BitVec 8

/-- A 12-bit address immediate `nnn` (30_encoding.md R81, R83). -/
abbrev Imm12 := BitVec 12

/-- The number of a general register, 0..F; every value names one (30_encoding.md R83). -/
abbrev Reg := Fin 16

/-- Register F, also the flag (10_state.md R32). -/
abbrev VF : Reg := 15

end Sys2Proof
end

