-- ==== Sys2Proof/Syntax.lean ====
section
/-!
DEFINITION. The 34 instructions of 30_encoding.md R85, one constructor per row, in the table's order.
-/

namespace Sys2Proof

/-- The instruction set (30_encoding.md R85). `x`, `y` are register numbers, `nn` a byte, `nnn` an address; the row
count `n` of `drw` is a count, not a word, and `Instr.wf` bounds it. -/
inductive Instr where
  /-- `00E0` CLS (R100) -/
  | cls
  /-- `00EE` RET (R120) -/
  | ret
  /-- `1nnn` JP nnn (R122) -/
  | jp (nnn : Imm12)
  /-- `2nnn` CALL nnn (R124) -/
  | call (nnn : Imm12)
  /-- `3xnn` SE Vx, nn (R127) -/
  | seImm (x : Reg) (nn : Byte)
  /-- `4xnn` SNE Vx, nn (R128) -/
  | sneImm (x : Reg) (nn : Byte)
  /-- `5xy0` SE Vx, Vy (R129) -/
  | seReg (x y : Reg)
  /-- `6xnn` LD Vx, nn (R154) -/
  | ldImm (x : Reg) (nn : Byte)
  /-- `7xnn` ADD Vx, nn (R155) -/
  | addImm (x : Reg) (nn : Byte)
  /-- `8xy0` LD Vx, Vy (R156) -/
  | ldReg (x y : Reg)
  /-- `8xy1` OR Vx, Vy (R157) -/
  | orReg (x y : Reg)
  /-- `8xy2` AND Vx, Vy (R158) -/
  | andReg (x y : Reg)
  /-- `8xy3` XOR Vx, Vy (R159) -/
  | xorReg (x y : Reg)
  /-- `8xy4` ADD Vx, Vy (R160) -/
  | addReg (x y : Reg)
  /-- `8xy5` SUB Vx, Vy (R161) -/
  | subReg (x y : Reg)
  /-- `8xy6` SHR Vx, Vy (R162) -/
  | shrReg (x y : Reg)
  /-- `8xy7` SUBN Vx, Vy (R163) -/
  | subnReg (x y : Reg)
  /-- `8xyE` SHL Vx, Vy (R164) -/
  | shlReg (x y : Reg)
  /-- `9xy0` SNE Vx, Vy (R130) -/
  | sneReg (x y : Reg)
  /-- `Annn` LD I, nnn (R180) -/
  | ldI (nnn : Imm12)
  /-- `Bnnn` JP V0, nnn (R132) -/
  | jpV0 (nnn : Imm12)
  /-- `Cxnn` RND Vx, nn (R166) -/
  | rnd (x : Reg) (nn : Byte)
  /-- `Dxyn` DRW Vx, Vy, n (R102) -/
  | drw (x y : Reg) (n : Nat)
  /-- `Ex9E` SKP Vx (R200) -/
  | skp (x : Reg)
  /-- `ExA1` SKNP Vx (R201) -/
  | sknp (x : Reg)
  /-- `Fx07` LD Vx, DT (R205) -/
  | ldVxDt (x : Reg)
  /-- `Fx0A` LD Vx, K (R203) -/
  | ldVxK (x : Reg)
  /-- `Fx15` LD DT, Vx (R206) -/
  | ldDtVx (x : Reg)
  /-- `Fx18` LD ST, Vx (R207) -/
  | ldStVx (x : Reg)
  /-- `Fx1E` ADD I, Vx (R182) -/
  | addI (x : Reg)
  /-- `Fx29` LD F, Vx (R184) -/
  | ldF (x : Reg)
  /-- `Fx33` LD B, Vx (R186) -/
  | ldB (x : Reg)
  /-- `Fx55` LD [I], Vx (R188) -/
  | storeRegs (x : Reg)
  /-- `Fx65` LD Vx, [I] (R190) -/
  | loadRegs (x : Reg)
deriving DecidableEq, Repr

end Sys2Proof
end

