-- ==== Sys2Proof/Decode.lean ====
section
/-!
DEFINITION. The decoder of 30_encoding.md R84, total on words and on bytes, rejecting by name; then the encoder, written
from the `Encoding:` line of each instruction's rule; then the opcode map of R85 as data.
-/

namespace Sys2Proof

/-! ### Fields (30_encoding.md R81) -/

/-- `op`, `w[15:12]` -/
def opField (w : Word) : BitVec 4 := w.extractLsb' 12 4
/-- `x`, `w[11:8]` -/
def xField (w : Word) : Reg := (w.extractLsb' 8 4).toFin
/-- `y`, `w[7:4]` -/
def yField (w : Word) : Reg := (w.extractLsb' 4 4).toFin
/-- `n`, `w[3:0]` -/
def nField (w : Word) : BitVec 4 := w.extractLsb' 0 4
/-- `nn`, `w[7:0]` -/
def nnField (w : Word) : Byte := w.extractLsb' 0 8
/-- `nnn`, `w[11:0]` -/
def nnnField (w : Word) : Imm12 := w.extractLsb' 0 12

/-! ### Decoding -/

/-- The unsupported words of R86, by family. -/
inductive Unsupported where
  /-- `0nnn` other than `00E0`, `00EE`: the unimplemented legacy call (R87) -/
  | legacyCall
  /-- `5xyn` with n ≠ 0 (41_control_flow.md R131) -/
  | family5
  /-- `8xyn` with n in 8..D, F (42_alu.md R165) -/
  | family8
  /-- `9xyn` with n ≠ 0 (41_control_flow.md R131) -/
  | family9
  /-- `Exnn` with nn not 9E, A1 -/
  | familyE
  /-- `Fxnn` with nn not one of the nine sub-opcodes -/
  | familyF
deriving DecidableEq, Repr

/-- What decoding a word answers (R84). -/
inductive Decoded where
  | instr (i : Instr)
  | unsupported (why : Unsupported)
deriving DecidableEq, Repr

/-- Family 0 is matched on the whole word (R84). -/
def decodeFamily0 (w : Word) : Decoded :=
  if w = 0x00E0#16 then .instr .cls
  else if w = 0x00EE#16 then .instr .ret
  else .unsupported .legacyCall

/-- Family 5 (R84, R131). -/
def decodeFamily5 (w : Word) : Decoded :=
  if nField w = 0x0#4 then .instr (.seReg (xField w) (yField w)) else .unsupported .family5

/-- Family 8 (R84, R165; sub-opcodes 6, 7, E are log 21). -/
def decodeFamily8 (w : Word) : Decoded :=
  match nField w with
  | 0x0#4 => .instr (.ldReg (xField w) (yField w))
  | 0x1#4 => .instr (.orReg (xField w) (yField w))
  | 0x2#4 => .instr (.andReg (xField w) (yField w))
  | 0x3#4 => .instr (.xorReg (xField w) (yField w))
  | 0x4#4 => .instr (.addReg (xField w) (yField w))
  | 0x5#4 => .instr (.subReg (xField w) (yField w))
  | 0x6#4 => .instr (.shrReg (xField w) (yField w))
  | 0x7#4 => .instr (.subnReg (xField w) (yField w))
  | 0xE#4 => .instr (.shlReg (xField w) (yField w))
  | _ => .unsupported .family8

/-- Family 9 (R84, R131). -/
def decodeFamily9 (w : Word) : Decoded :=
  if nField w = 0x0#4 then .instr (.sneReg (xField w) (yField w)) else .unsupported .family9

/-- Family E (R84). -/
def decodeFamilyE (w : Word) : Decoded :=
  match nnField w with
  | 0x9E#8 => .instr (.skp (xField w))
  | 0xA1#8 => .instr (.sknp (xField w))
  | _ => .unsupported .familyE

/-- Family F (R84, R85 rows 26 to 34). -/
def decodeFamilyF (w : Word) : Decoded :=
  match nnField w with
  | 0x07#8 => .instr (.ldVxDt (xField w))
  | 0x0A#8 => .instr (.ldVxK (xField w))
  | 0x15#8 => .instr (.ldDtVx (xField w))
  | 0x18#8 => .instr (.ldStVx (xField w))
  | 0x1E#8 => .instr (.addI (xField w))
  | 0x29#8 => .instr (.ldF (xField w))
  | 0x33#8 => .instr (.ldB (xField w))
  | 0x55#8 => .instr (.storeRegs (xField w))
  | 0x65#8 => .instr (.loadRegs (xField w))
  | _ => .unsupported .familyF

/-- `Decode(w)` of R84: a function of the word alone. -/
def decodeWord (w : Word) : Decoded :=
  match opField w with
  | 0x0#4 => decodeFamily0 w
  | 0x1#4 => .instr (.jp (nnnField w))
  | 0x2#4 => .instr (.call (nnnField w))
  | 0x3#4 => .instr (.seImm (xField w) (nnField w))
  | 0x4#4 => .instr (.sneImm (xField w) (nnField w))
  | 0x5#4 => decodeFamily5 w
  | 0x6#4 => .instr (.ldImm (xField w) (nnField w))
  | 0x7#4 => .instr (.addImm (xField w) (nnField w))
  | 0x8#4 => decodeFamily8 w
  | 0x9#4 => decodeFamily9 w
  | 0xA#4 => .instr (.ldI (nnnField w))
  | 0xB#4 => .instr (.jpV0 (nnnField w))
  | 0xC#4 => .instr (.rnd (xField w) (nnField w))
  | 0xD#4 => .instr (.drw (xField w) (yField w) (nField w).toNat)
  | 0xE#4 => decodeFamilyE w
  | _ => decodeFamilyF w

/-- One big-endian word from two bytes, the first at the lower address (20_memory.md R65, R66). -/
def wordOfBytes (hi lo : Byte) : Word := (hi.setWidth 16 <<< 8) ||| lo.setWidth 16

/-- The two bytes of a word as memory holds them, the lower address first (20_memory.md R66). -/
def bytesOfWord (w : Word) : List Byte := [w.extractLsb' 8 8, w.extractLsb' 0 8]

/-- What decoding a byte sequence answers. -/
inductive DecodedBytes where
  /-- an instruction, and the bytes after it -/
  | instr (i : Instr) (rest : List Byte)
  /-- the word is unsupported (R86) -/
  | unsupported (why : Unsupported)
  /-- fewer than two bytes: every instruction has exactly two (R80) -/
  | truncated
deriving DecidableEq, Repr

/-- Decoding always consumes two bytes (30_encoding.md R80). -/
def decode : List Byte → DecodedBytes
  | hi :: lo :: rest =>
    match decodeWord (wordOfBytes hi lo) with
    | .instr i => .instr i rest
    | .unsupported why => .unsupported why
  | _ => .truncated

/-! ### Encoding -/

/-- `x<<8` -/
def placeX (x : Reg) : Word := BitVec.ofNat 16 x.val <<< 8
/-- `y<<4` -/
def placeY (y : Reg) : Word := BitVec.ofNat 16 y.val <<< 4

/-- The word of an instruction: the `Encoding:` line of its rule. -/
def encode : Instr → Word
  | .cls => 0x00E0#16
  | .ret => 0x00EE#16
  | .jp nnn => 0x1000#16 ||| nnn.setWidth 16
  | .call nnn => 0x2000#16 ||| nnn.setWidth 16
  | .seImm x nn => 0x3000#16 ||| placeX x ||| nn.setWidth 16
  | .sneImm x nn => 0x4000#16 ||| placeX x ||| nn.setWidth 16
  | .seReg x y => 0x5000#16 ||| placeX x ||| placeY y
  | .ldImm x nn => 0x6000#16 ||| placeX x ||| nn.setWidth 16
  | .addImm x nn => 0x7000#16 ||| placeX x ||| nn.setWidth 16
  | .ldReg x y => 0x8000#16 ||| placeX x ||| placeY y
  | .orReg x y => 0x8001#16 ||| placeX x ||| placeY y
  | .andReg x y => 0x8002#16 ||| placeX x ||| placeY y
  | .xorReg x y => 0x8003#16 ||| placeX x ||| placeY y
  | .addReg x y => 0x8004#16 ||| placeX x ||| placeY y
  | .subReg x y => 0x8005#16 ||| placeX x ||| placeY y
  | .shrReg x y => 0x8006#16 ||| placeX x ||| placeY y
  | .subnReg x y => 0x8007#16 ||| placeX x ||| placeY y
  | .shlReg x y => 0x800E#16 ||| placeX x ||| placeY y
  | .sneReg x y => 0x9000#16 ||| placeX x ||| placeY y
  | .ldI nnn => 0xA000#16 ||| nnn.setWidth 16
  | .jpV0 nnn => 0xB000#16 ||| nnn.setWidth 16
  | .rnd x nn => 0xC000#16 ||| placeX x ||| nn.setWidth 16
  | .drw x y n => 0xD000#16 ||| placeX x ||| placeY y ||| (BitVec.ofNat 4 n).setWidth 16
  | .skp x => 0xE09E#16 ||| placeX x
  | .sknp x => 0xE0A1#16 ||| placeX x
  | .ldVxDt x => 0xF007#16 ||| placeX x
  | .ldVxK x => 0xF00A#16 ||| placeX x
  | .ldDtVx x => 0xF015#16 ||| placeX x
  | .ldStVx x => 0xF018#16 ||| placeX x
  | .addI x => 0xF01E#16 ||| placeX x
  | .ldF x => 0xF029#16 ||| placeX x
  | .ldB x => 0xF033#16 ||| placeX x
  | .storeRegs x => 0xF055#16 ||| placeX x
  | .loadRegs x => 0xF065#16 ||| placeX x

/-- The bytes of an instruction as memory holds them. -/
def encodeBytes (i : Instr) : List Byte := bytesOfWord (encode i)

/-! ### The opcode map (30_encoding.md R85) -/

/-- The mask and match a decoder tests: `(w & mask) = value`. -/
structure OpcodeRow where
  mask : Word
  value : Word
deriving DecidableEq, Repr

/-- `w` matches the row. -/
def OpcodeRow.hits (r : OpcodeRow) (w : Word) : Bool := w &&& r.mask == r.value

/-- The row of the opcode map an instruction belongs to. -/
def Instr.row : Instr → OpcodeRow
  | .cls => ⟨0xFFFF#16, 0x00E0#16⟩
  | .ret => ⟨0xFFFF#16, 0x00EE#16⟩
  | .jp _ => ⟨0xF000#16, 0x1000#16⟩
  | .call _ => ⟨0xF000#16, 0x2000#16⟩
  | .seImm _ _ => ⟨0xF000#16, 0x3000#16⟩
  | .sneImm _ _ => ⟨0xF000#16, 0x4000#16⟩
  | .seReg _ _ => ⟨0xF00F#16, 0x5000#16⟩
  | .ldImm _ _ => ⟨0xF000#16, 0x6000#16⟩
  | .addImm _ _ => ⟨0xF000#16, 0x7000#16⟩
  | .ldReg _ _ => ⟨0xF00F#16, 0x8000#16⟩
  | .orReg _ _ => ⟨0xF00F#16, 0x8001#16⟩
  | .andReg _ _ => ⟨0xF00F#16, 0x8002#16⟩
  | .xorReg _ _ => ⟨0xF00F#16, 0x8003#16⟩
  | .addReg _ _ => ⟨0xF00F#16, 0x8004#16⟩
  | .subReg _ _ => ⟨0xF00F#16, 0x8005#16⟩
  | .shrReg _ _ => ⟨0xF00F#16, 0x8006#16⟩
  | .subnReg _ _ => ⟨0xF00F#16, 0x8007#16⟩
  | .shlReg _ _ => ⟨0xF00F#16, 0x800E#16⟩
  | .sneReg _ _ => ⟨0xF00F#16, 0x9000#16⟩
  | .ldI _ => ⟨0xF000#16, 0xA000#16⟩
  | .jpV0 _ => ⟨0xF000#16, 0xB000#16⟩
  | .rnd _ _ => ⟨0xF000#16, 0xC000#16⟩
  | .drw _ _ _ => ⟨0xF000#16, 0xD000#16⟩
  | .skp _ => ⟨0xF0FF#16, 0xE09E#16⟩
  | .sknp _ => ⟨0xF0FF#16, 0xE0A1#16⟩
  | .ldVxDt _ => ⟨0xF0FF#16, 0xF007#16⟩
  | .ldVxK _ => ⟨0xF0FF#16, 0xF00A#16⟩
  | .ldDtVx _ => ⟨0xF0FF#16, 0xF015#16⟩
  | .ldStVx _ => ⟨0xF0FF#16, 0xF018#16⟩
  | .addI _ => ⟨0xF0FF#16, 0xF01E#16⟩
  | .ldF _ => ⟨0xF0FF#16, 0xF029#16⟩
  | .ldB _ => ⟨0xF0FF#16, 0xF033#16⟩
  | .storeRegs _ => ⟨0xF0FF#16, 0xF055#16⟩
  | .loadRegs _ => ⟨0xF0FF#16, 0xF065#16⟩

/-- The 34 rows of the opcode map, in the table's order. -/
def opcodeMap : List OpcodeRow :=
  [⟨0xFFFF#16, 0x00E0#16⟩, ⟨0xFFFF#16, 0x00EE#16⟩, ⟨0xF000#16, 0x1000#16⟩, ⟨0xF000#16, 0x2000#16⟩,
   ⟨0xF000#16, 0x3000#16⟩, ⟨0xF000#16, 0x4000#16⟩, ⟨0xF00F#16, 0x5000#16⟩, ⟨0xF000#16, 0x6000#16⟩,
   ⟨0xF000#16, 0x7000#16⟩] ++
  [⟨0xF00F#16, 0x8000#16⟩, ⟨0xF00F#16, 0x8001#16⟩, ⟨0xF00F#16, 0x8002#16⟩, ⟨0xF00F#16, 0x8003#16⟩,
   ⟨0xF00F#16, 0x8004#16⟩, ⟨0xF00F#16, 0x8005#16⟩, ⟨0xF00F#16, 0x8006#16⟩, ⟨0xF00F#16, 0x8007#16⟩,
   ⟨0xF00F#16, 0x800E#16⟩] ++
  [⟨0xF00F#16, 0x9000#16⟩, ⟨0xF000#16, 0xA000#16⟩, ⟨0xF000#16, 0xB000#16⟩, ⟨0xF000#16, 0xC000#16⟩,
   ⟨0xF000#16, 0xD000#16⟩, ⟨0xF0FF#16, 0xE09E#16⟩, ⟨0xF0FF#16, 0xE0A1#16⟩] ++
  [⟨0xF0FF#16, 0xF007#16⟩, ⟨0xF0FF#16, 0xF00A#16⟩, ⟨0xF0FF#16, 0xF015#16⟩, ⟨0xF0FF#16, 0xF018#16⟩,
   ⟨0xF0FF#16, 0xF01E#16⟩, ⟨0xF0FF#16, 0xF029#16⟩, ⟨0xF0FF#16, 0xF033#16⟩, ⟨0xF0FF#16, 0xF055#16⟩,
   ⟨0xF0FF#16, 0xF065#16⟩]

/-! ### The opcode table's numbering -/

/-- The instruction the decoder reads from the bytes of an instruction whose bits are `w`, bit 0 the least significant
bit of the word (spec/98_reader.md); bits above `nbits` are 0. -/
def decodeTableWord (nbits w : Nat) : Option Instr :=
  match decode (bytesOfWord (BitVec.ofNat 16 (w % 2 ^ nbits))) with
  | .instr i _ => some i
  | .unsupported _ => none
  | .truncated => none

end Sys2Proof
end

