-- ==== Sys2Proof/Config.lean ====
section
/-!
DEFINITION. What an implementation fixes (00_scope.md R10, R11) and the free values.
The reference VALUES of the open parameters stand in Machine/Reference.lean.
-/

namespace Sys2Proof

/-- Which register `8xy6` and `8xyE` shift: parameter SHIFT_SOURCE (00_scope.md R11, decision D6). -/
inductive ShiftSource where
  | x
  | y
deriving DecidableEq, Repr

/-- The parameters the document leaves open and a machine fixes (00_scope.md R11). They never change while a machine
runs; State carries them (log 4) so that a statement over every state is a statement over every value of them. -/
structure Params where
  /-- STACK_CAPACITY, an integer in 12..16 (decision D1) -/
  stackCapacity : Nat
  /-- FONT, the 80 bytes at 0x000..0x04F (decision D2) -/
  font : Vector Byte 80
  /-- SHIFT_SOURCE (decision D6) -/
  shiftSource : ShiftSource
deriving DecidableEq, Repr

/-- R11 gives the range of STACK_CAPACITY. -/
abbrev Params.ok (p : Params) : Prop := 12 ≤ p.stackCapacity ∧ p.stackCapacity ≤ 16

/-- MEM_SIZE (00_scope.md R10). -/
def Config.memSize : Nat := 4096

/-- PROG_ORIGIN (00_scope.md R10). -/
def Config.progOrigin : Nat := 0x200

/-- FONT_SIZE; FONT_BASE is 0 (00_scope.md R10). -/
def Config.fontSize : Nat := 80

/-- DESIGN CHOICE (log 10; safe, but where two executions are compared). The random byte of the `k`-th draw when the
random source has no byte ready: a free value, any byte (10_state.md R51, 42_alu.md R166). It has no body, so nothing can
be proved of its value. -/
opaque Config.freeByte : Nat → Byte

end Sys2Proof
end

