-- ==== Sys2Proof/Machine/Reference.lean ====
section
/-!
DEFINITION. The spec's reference values of the open parameters (00_scope.md R11). A machine with other values is another
`Params`; no statement about every state depends on these.
-/

namespace Sys2Proof

/-- PRESUMED (log 1, unsafe). The conventional font, sixteen glyphs of five bytes, top row first (10_state.md R47; the
spec marks the bytes as general knowledge, G1). -/
def Params.fontBytes : List Byte :=
  [0xF0, 0x90, 0x90, 0x90, 0xF0, 0x20, 0x60, 0x20, 0x20, 0x70] ++
  [0xF0, 0x10, 0xF0, 0x80, 0xF0, 0xF0, 0x10, 0xF0, 0x10, 0xF0] ++
  [0x90, 0x90, 0xF0, 0x10, 0x10, 0xF0, 0x80, 0xF0, 0x10, 0xF0] ++
  [0xF0, 0x80, 0xF0, 0x90, 0xF0, 0xF0, 0x10, 0x20, 0x40, 0x40] ++
  [0xF0, 0x90, 0xF0, 0x90, 0xF0, 0xF0, 0x90, 0xF0, 0x10, 0xF0] ++
  [0xF0, 0x90, 0xF0, 0x90, 0x90, 0xE0, 0x90, 0xE0, 0x90, 0xE0] ++
  [0xF0, 0x80, 0x80, 0x80, 0xF0, 0xE0, 0x90, 0x90, 0x90, 0xE0] ++
  [0xF0, 0x80, 0xF0, 0x80, 0xF0, 0xF0, 0x80, 0xF0, 0x80, 0x80]

/-- The reference FONT as the parameter's 80 bytes. -/
def Params.referenceFont : Vector Byte 80 := ⟨Params.fontBytes.toArray, by decide⟩

/-- The reference machine: STACK_CAPACITY 16 (log 2), the conventional font (log 1), SHIFT_SOURCE X (log 3). -/
def Params.reference : Params :=
  { stackCapacity := 16, font := Params.referenceFont, shiftSource := .x }

end Sys2Proof
end

