-- ==== Sys2Proof/Machine/State.lean ====
section
/-!
DEFINITION. The state of the core (10_state.md R30), the events of its environment, the reasons a step can stop, and the
state after reset (R54).
-/

namespace Sys2Proof.Machine

/-- The five fatal faults of 60_exceptions.md R225. Raising one is a NEXT state (log 5): the core halts with the fault
recorded in `run`. -/
inductive FaultKind where
  /-- `pc` outside 0x200..0xFFE at the fetch (R222) -/
  | illegalAddress
  /-- `2nnn` with a full stack (41_control_flow.md R124) -/
  | stackOverflow
  /-- `00EE` with an empty stack (41_control_flow.md R120) -/
  | stackUnderflow
  /-- a word of no instruction (R224) -/
  | unsupportedOpcode
  /-- `Ex9E`, `ExA1` with a key code above 0xF (44_keys_timers.md R202) -/
  | keyOutOfRange
deriving DecidableEq, Repr

/-- The numeric codes of 60_exceptions.md R225 (decision D17). -/
def FaultKind.code : FaultKind → Nat
  | .illegalAddress => 1
  | .stackOverflow => 2
  | .stackUnderflow => 3
  | .unsupportedOpcode => 4
  | .keyOutOfRange => 5

/-- Why a run ended (60_exceptions.md R234). -/
inductive HaltReason where
  /-- the stop check fired (R221) -/
  | stopped
  /-- a fault, with the address and the word it records (R225, R226) -/
  | fault (kind : FaultKind) (pc : Word) (w : Option Word)
deriving DecidableEq, Repr

/-- The field `run` (10_state.md R43). -/
inductive RunStatus where
  | running
  | halted (reason : HaltReason)
deriving DecidableEq, Repr

/-- Memory as the cells that differ from the reset contents, addresses strictly rising (`Memory.wf`). -/
abbrev Memory := List Host.Cell

/-- The frame buffer, `FB[r][c]`: 32 rows of 64 cells (10_state.md R44). -/
abbrev FrameBuffer := Vector (Vector Bool 64) 32

/-- Every cell false (10_state.md R44, 40_display.md R100). -/
def FrameBuffer.blank : FrameBuffer := Vector.replicate 32 (Vector.replicate 64 false)

/-- The key matrix, `keys[k]` true while key `k` is pressed (10_state.md R48). -/
abbrev Keys := Vector Bool 16

/-- Who acts next: the engine, or one of the environment's agents (00_scope.md R21). -/
inductive Turn where
  /-- one engine step (60_exceptions.md R220) -/
  | engine
  /-- the tick source applies one tick (R236) -/
  | tick
  /-- the key source sets the whole matrix (10_state.md R48) -/
  | setKeys (keys : Keys)
  /-- the stop source requests a stop (10_state.md R49) -/
  | requestStop
deriving DecidableEq, Repr

/-- The state of the core, its inputs and outputs. Every field up to `sound` is the spec's state tuple (10_state.md R30);
`keys` and `frames` are its interface (R48, R52); the rest is the model's own (logs 4, 8, 10). -/
structure State where
  /-- memory (R45) -/
  mem : Memory
  /-- general registers (R31) -/
  V : Vector Byte 16
  /-- index register (R38) -/
  I : Word
  /-- program counter (R34) -/
  pc : Word
  /-- the call stack's slots, STACK_CAPACITY of them (R39) -/
  stack : List Word
  /-- stack pointer, the next free slot (R39) -/
  sp : Nat
  /-- delay timer (R42) -/
  DT : Byte
  /-- sound timer (R42) -/
  ST : Byte
  /-- frame buffer (R44) -/
  FB : FrameBuffer
  /-- Running or Halted (R43) -/
  run : RunStatus
  /-- the stop signal (R49) -/
  stop : Bool
  /-- the sound-active output (R53) -/
  sound : Bool
  /-- input: the key matrix (R48) -/
  keys : Keys
  /-- output: every published frame, newest first (R52, log 11) -/
  frames : List FrameBuffer
  /-- input: random bytes the random source has ready, oldest first (R51, log 10) -/
  rand : List Byte
  /-- how many random bytes have been drawn (log 10) -/
  draws : Nat
  /-- whose turns are scheduled, next first; none means the engine's (log 8) -/
  turns : List Turn
  /-- the machine's parameters, which no step writes (00_scope.md R11, log 4) -/
  params : Params
deriving DecidableEq, Repr

/-- Reasons a step stops with a fault of the MODEL. The spec's own faults are next states (`FaultKind`, log 5). -/
inductive Fault where
  /-- Raised by `2nnn` and `00EE` in a state outside the invariant of 10_state.md R39, where `sp` points past the slots the
  stack has: the spec gives such a state no meaning and no run reaches it. Safe (log 15). -/
  | noSuchStackSlot
deriving DecidableEq, Repr

/-- Reasons the model gives no next state. -/
inductive Refusal where
  /-- Raised by `exec` for an instruction without a meaning. None is left. Safe. -/
  | notModelled (mnemonic : String)
  /-- Raised by `resetImage` when the loader could not supply bytes: no machine is created (70_reset_and_hazards.md R261).
  Safe (log 16). -/
  | imageUnreadable
  /-- Raised by `resetImage` for an image above 3584 bytes: no machine is created (70_reset_and_hazards.md R261).
  Safe (log 16). -/
  | imageTooLarge
deriving DecidableEq, Repr

/-- What a step of this machine answers. -/
abbrev Result := Host.Outcome State Fault Refusal

/-- What a check that can raise a fault answers: a value, one of the five faults, or a stop of the model. -/
inductive Attempt (α : Type) where
  | done (a : α)
  | raise (kind : FaultKind)
  | stop (why : Fault)
deriving DecidableEq, Repr

/-- Every piece of state at its reset value (10_state.md R54) for a machine with the parameters `p`, before an image is
copied. No key pressed, nothing published and no turn scheduled are DESIGN CHOICES (logs 8, 9, 10, 11). -/
def State.resetOf (p : Params) : State :=
  { mem := []
    V := Vector.replicate 16 0
    I := 0
    pc := BitVec.ofNat 16 Config.progOrigin
    stack := List.replicate p.stackCapacity 0
    sp := 0
    DT := 0
    ST := 0
    FB := FrameBuffer.blank
    run := .running
    stop := false
    sound := false
    keys := Vector.replicate 16 false
    frames := []
    rand := []
    draws := 0
    turns := []
    params := p }

/-- The reference machine right after reset with the empty image (10_state.md R54, 70_reset_and_hazards.md R260; log 12). -/
def State.reset : State := State.resetOf Params.reference

end Sys2Proof.Machine
end

