-- ==== Sys2Proof/Machine/Ops.lean ====
section
/-!
DEFINITION. The named operations over memory, registers, the stack, the program counter, the frame buffer and the
core's outputs; and the one shared description of raising a fault (60_exceptions.md R226). There is no return from a
fault (R228).
-/

namespace Sys2Proof.Machine

/-! ### Memory (20_memory.md) -/

/-- What an address no cell lists reads as: the reset contents, FONT at 0x000..0x04F and 0 elsewhere (10_state.md R54,
log 17). -/
def Memory.unlisted (font : Vector Byte 80) (a : Nat) : Byte :=
  if h : a < 80 then font[a] else 0

/-- `MemRead(a, 1)` (00_scope.md R15). -/
def Memory.read (font : Vector Byte 80) : Memory → Nat → Byte
  | [], a => Memory.unlisted font a
  | (k, b) :: rest, a => if k = a then b else Memory.read font rest a

/-- List `b` at `a`, keeping addresses strictly rising. -/
def Memory.put : Memory → Nat → Byte → Memory
  | [], a, b => [(a, b)]
  | (k, c) :: rest, a, b =>
    if k < a then (k, c) :: Memory.put rest a b
    else if k = a then (a, b) :: rest
    else (a, b) :: (k, c) :: rest

/-- List nothing at `a`. -/
def Memory.erase (m : Memory) (a : Nat) : Memory := m.filter (fun c => c.1 != a)

/-- `MemWrite(a, 1, b)` (00_scope.md R15), in canonical form: a byte an unlisted address reads as is not listed. -/
def Memory.write (font : Vector Byte 80) (m : Memory) (a : Nat) (b : Byte) : Memory :=
  if b = Memory.unlisted font a then Memory.erase m a else Memory.put m a b

/-- The canonical form: addresses strictly rising and in 0x000..0xFFF, no cell equal to the reset contents. -/
abbrev Memory.wf (font : Vector Byte 80) (m : Memory) : Prop :=
  m.Pairwise (fun c d => c.1 < d.1) ∧ ∀ c ∈ m, c.1 < Config.memSize ∧ c.2 ≠ Memory.unlisted font c.1

/-- Read one byte of the machine's memory. -/
def State.readByte (s : State) (a : Nat) : Byte := Memory.read s.params.font s.mem a

/-- Write one byte of the machine's memory; any address may be written (20_memory.md R63). -/
def State.writeByte (s : State) (a : Nat) (b : Byte) : State :=
  { s with mem := Memory.write s.params.font s.mem a b }

/-- Write consecutive bytes from `a` up, not wrapping: the image copy of reset (70_reset_and_hazards.md R260). -/
def State.writeImage (s : State) (a : Nat) : List Byte → State
  | [] => s
  | b :: rest => (s.writeByte a b).writeImage (a + 1) rest

/-! ### Registers -/

/-- `V[r]` (00_scope.md R14). -/
def State.getV (s : State) (r : Reg) : Byte := s.V.get r

/-- `V[r] <- b` (00_scope.md R14). -/
def State.setV (s : State) (r : Reg) (b : Byte) : State := { s with V := s.V.set r.val b }

/-- `I <- a`. -/
def State.setI (s : State) (a : Word) : State := { s with I := a }

/-- `DT <- b`. -/
def State.setDT (s : State) (b : Byte) : State := { s with DT := b }

/-- `ST <- b`. -/
def State.setST (s : State) (b : Byte) : State := { s with ST := b }

/-! ### Program counter (10_state.md R35) -/

/-- `pc <- a`: no target is checked (41_control_flow.md R123). -/
def State.setPc (s : State) (a : Word) : State := { s with pc := a }

/-- `pc <- p + 2`. -/
def State.advance (s : State) : State := s.setPc (s.pc + 2)

/-- `pc <- p + 4` if the condition holds, else `p + 2` (41_control_flow.md R126). -/
def State.skipIf (s : State) (c : Bool) : State := s.setPc (if c then s.pc + 4 else s.pc + 2)

/-- `0x200 ≤ pc ≤ 0xFFE` (60_exceptions.md R222). -/
def State.pcInRange (s : State) : Bool := decide (0x200 ≤ s.pc.toNat ∧ s.pc.toNat ≤ 0xFFE)

/-- The instruction word at `pc`, which is in range: two unmasked reads, big-endian (20_memory.md R65). -/
def State.fetchWord (s : State) : Word := wordOfBytes (s.readByte s.pc.toNat) (s.readByte (s.pc.toNat + 1))

/-! ### Faults -/

/-- `raise Fault(kind, p, w)` (60_exceptions.md R226): nothing of the instruction is written, `pc` stays, and the core
halts with the fault recorded. -/
def State.raiseFault (s : State) (kind : FaultKind) (w : Option Word) : State :=
  { s with stop := true, sound := false, run := .halted (.fault kind s.pc w) }

/-- The stop check fired (60_exceptions.md R221). -/
def State.haltStopped (s : State) : State := { s with run := .halted .stopped }

/-- Go on with the value of a check, or raise its fault for the instruction whose word is `w`: the check comes before
any write (60_exceptions.md R226). -/
def Attempt.andThen {α : Type} (c : Attempt α) (s : State) (w : Word) (k : α → Result) : Result :=
  match c with
  | .done a => k a
  | .raise kind => .next (s.raiseFault kind (some w))
  | .stop why => .fault why

/-! ### Call stack (10_state.md R40) -/

/-- `Push(a)`. -/
def State.push (s : State) (a : Word) : Attempt State :=
  if s.sp = s.params.stackCapacity then .raise .stackOverflow
  else if s.sp < s.stack.length then .done { s with stack := s.stack.set s.sp a, sp := s.sp + 1 }
  else .stop .noSuchStackSlot

/-- `Pop()`: the popped address and the state with `sp` lowered; the slot keeps its value (R41). -/
def State.pop (s : State) : Attempt (Word × State) :=
  if s.sp = 0 then .raise .stackUnderflow
  else match s.stack[s.sp - 1]? with
    | some a => .done (a, { s with sp := s.sp - 1 })
    | none => .stop .noSuchStackSlot

/-! ### Frame buffer (40_display.md) -/

/-- `FB[r][c]` (10_state.md R44). -/
def FrameBuffer.cell (fb : FrameBuffer) (r : Fin 32) (c : Fin 64) : Bool := (Vector.get fb r).get c

/-- `FB[r][c] <- not FB[r][c]` (40_display.md R102, R104). -/
def FrameBuffer.toggle (fb : FrameBuffer) (r : Fin 32) (c : Fin 64) : FrameBuffer :=
  Vector.set fb r.val ((Vector.get fb r).set c.val (!FrameBuffer.cell fb r c))

/-- The frame buffer and the collision flag while a sprite is drawn (40_display.md R102). -/
structure Canvas where
  fb : FrameBuffer
  collision : Bool
deriving DecidableEq, Repr

/-- One lit sprite pixel: the collision test, then the toggle (40_display.md R102). -/
def Canvas.plot (k : Canvas) (r : Fin 32) (c : Fin 64) : Canvas :=
  { fb := FrameBuffer.toggle k.fb r c, collision := k.collision || FrameBuffer.cell k.fb r c }

/-- The sprite pixel at column offset `c` of a row byte; bit 7 is the leftmost (40_display.md R103, log 20). -/
def spriteBit (b : Byte) (c : Nat) : Bool := b.getLsbD (7 - c)

/-- One sprite row, `for c in 0..7`, at screen row `row` and column origin `cx`; columns wrap (40_display.md R102). -/
def Canvas.drawRow (k : Canvas) (b : Byte) (cx row : Nat) : Canvas :=
  (List.range 8).foldl
    (fun k c => if spriteBit b c then k.plot (Fin.ofNat 32 row) (Fin.ofNat 64 (cx + c)) else k) k

/-- All rows of a sprite, `for r in 0..n-1`, from its row bytes; rows wrap (40_display.md R102). -/
def Canvas.drawRows (k : Canvas) (rowByte : Nat → Byte) (cx cy n : Nat) : Canvas :=
  (List.range n).foldl (fun k r => k.drawRow (rowByte r) cx (cy + r)) k

/-- The frame buffer becomes `fb` and a full copy of it is published (10_state.md R52, 40_display.md R101). -/
def State.showFrame (s : State) (fb : FrameBuffer) : State := { s with FB := fb, frames := fb :: s.frames }

/-! ### Random source (10_state.md R51) -/

/-- The byte `Draw.byte()` answers: the oldest byte the random source has ready, else a free value (log 10). -/
def State.randomByte (s : State) : Byte := s.rand.headD (Config.freeByte s.draws)

/-- The random source after one draw. -/
def State.afterDraw (s : State) : State := { s with rand := s.rand.tail, draws := s.draws + 1 }

end Sys2Proof.Machine
end

