-- ==== Sys2Proof/Machine/Flags.lean ====
section
/-!
DEFINITION. The values written to VF as a flag (10_state.md R37) and the order of the two writes (42_alu.md R152).
-/

namespace Sys2Proof.Machine

/-- A flag is 1 or 0. -/
def flagByte (c : Bool) : Byte := if c then 1 else 0

/-- `8xy4`: 1 iff the sum exceeds 255 (42_alu.md R160). -/
def carryFlag (a b : Byte) : Byte := flagByte (decide (a.toNat + b.toNat > 255))

/-- `a - b` (`8xy5`, and `8xy7` with the operands exchanged): 1 iff `a > b`, strictly (42_alu.md R161, R163; log 22). -/
def greaterFlag (a b : Byte) : Byte := flagByte (decide (a.toNat > b.toNat))

/-- `8xy6`: bit 0 of the shifted register (42_alu.md R162). -/
def bit0Flag (v : Byte) : Byte := flagByte (v.getLsbD 0)

/-- `8xyE`: bit 7 of the shifted register (42_alu.md R164). -/
def bit7Flag (v : Byte) : Byte := flagByte (v.getLsbD 7)

/-- `V[0xF] <- flag`, then `V[x] <- result`, both latched before (42_alu.md R151, R152; log 23). -/
def State.setFlagThen (s : State) (flag : Byte) (x : Reg) (result : Byte) : State :=
  (s.setV VF flag).setV x result

end Sys2Proof.Machine
end

