-- ==== Sys2Proof/Machine/Operands.lean ====
section
/-!
DEFINITION. Operand forms: effective addresses, the shift source, immediates as addresses, key codes, decimal digits.
-/

namespace Sys2Proof.Machine

/-- The address of the `k`-th byte of an access based at `base`: `(base + k) & 0xFFF` (20_memory.md R62). -/
def effAddr (base : Word) (k : Nat) : Nat := ((base + BitVec.ofNat 16 k) &&& 0xFFF#16).toNat

/-- `zext_16(nnn)` (30_encoding.md R83). -/
def addrOf (nnn : Imm12) : Word := nnn.setWidth 16

/-- `zext_16(b)`. -/
def wordOf (b : Byte) : Word := b.setWidth 16

/-- The register `8xy6` and `8xyE` shift (42_alu.md R162, R164). -/
def shiftReg (p : Params) (x y : Reg) : Reg :=
  match p.shiftSource with
  | .x => x
  | .y => y

/-- Sample the key a register names; a code above 0xF is a fault (44_keys_timers.md R200, R202). -/
def State.keyDown (s : State) (code : Byte) : Attempt Bool :=
  if h : code.toNat < 16 then .done (s.keys.get ⟨code.toNat, h⟩) else .raise .keyOutOfRange

/-- `min { k | keys[k] }`, if some key is pressed (44_keys_timers.md R203). -/
def lowestKey (keys : Keys) : Option Reg := (List.finRange 16).find? (fun k => keys.get k)

/-- A key code as a register holds it. -/
def codeOf (k : Reg) : Byte := BitVec.ofNat 8 k.val

/-- Hundreds, tens and ones of a byte (43_index_memory.md R186). -/
def decimalDigits (v : Byte) : List Byte :=
  [BitVec.ofNat 8 (v.toNat / 100), BitVec.ofNat 8 (v.toNat / 10 % 10), BitVec.ofNat 8 (v.toNat % 10)]

/-- Store bytes at `(base + k) & 0xFFF`, `(base + k + 1) & 0xFFF`, … in turn (20_memory.md R62). -/
def State.storeBytes (s : State) (base : Word) (k : Nat) : List Byte → State
  | [] => s
  | b :: rest => (s.writeByte (effAddr base k) b).storeBytes base (k + 1) rest

/-- The registers `V[0]..V[x]` in order (43_index_memory.md R188). -/
def State.regsUpTo (s : State) (x : Reg) : List Byte :=
  (List.range (x.val + 1)).map (fun k => s.getV (Fin.ofNat 16 k))

/-- `for k in 0..x: V[k] <- MemRead((base + k) & 0xFFF, 1)` (43_index_memory.md R190). -/
def State.loadUpTo (s : State) (base : Word) (x : Reg) : State :=
  (List.range (x.val + 1)).foldl (fun t k => t.setV (Fin.ofNat 16 k) (s.readByte (effAddr base k))) s

end Sys2Proof.Machine
end

