-- ==== Sys2Proof/Machine/Alu.lean ====
section
/-!
DEFINITION. The register and ALU instructions (42_alu.md).
-/

namespace Sys2Proof.Machine

/-- `6xnn` (R154). -/
def execLdImm (x : Reg) (nn : Byte) (s : State) : Result := .next (s.setV x nn).advance

/-- `7xnn` (R155): no flag. -/
def execAddImm (x : Reg) (nn : Byte) (s : State) : Result := .next (s.setV x (s.getV x + nn)).advance

/-- `8xy0` (R156). -/
def execLdReg (x y : Reg) (s : State) : Result := .next (s.setV x (s.getV y)).advance

/-- `8xy1` (R157): VF is not reset (log 24). -/
def execOrReg (x y : Reg) (s : State) : Result := .next (s.setV x (s.getV x ||| s.getV y)).advance

/-- `8xy2` (R158): VF is not reset (log 24). -/
def execAndReg (x y : Reg) (s : State) : Result := .next (s.setV x (s.getV x &&& s.getV y)).advance

/-- `8xy3` (R159): VF is not reset (log 24). -/
def execXorReg (x y : Reg) (s : State) : Result := .next (s.setV x (s.getV x ^^^ s.getV y)).advance

/-- `8xy4` (R160). -/
def execAddReg (x y : Reg) (s : State) : Result :=
  let a := s.getV x
  let b := s.getV y
  .next (s.setFlagThen (carryFlag a b) x (a + b)).advance

/-- `8xy5` (R161). -/
def execSubReg (x y : Reg) (s : State) : Result :=
  let a := s.getV x
  let b := s.getV y
  .next (s.setFlagThen (greaterFlag a b) x (a - b)).advance

/-- `8xy6` (R162). -/
def execShrReg (x y : Reg) (s : State) : Result :=
  let v := s.getV (shiftReg s.params x y)
  .next (s.setFlagThen (bit0Flag v) x (v >>> 1)).advance

/-- `8xy7` (R163). -/
def execSubnReg (x y : Reg) (s : State) : Result :=
  let a := s.getV x
  let b := s.getV y
  .next (s.setFlagThen (greaterFlag b a) x (b - a)).advance

/-- `8xyE` (R164). -/
def execShlReg (x y : Reg) (s : State) : Result :=
  let v := s.getV (shiftReg s.params x y)
  .next (s.setFlagThen (bit7Flag v) x (v <<< 1)).advance

/-- `Cxnn` (R166): one draw, masked. -/
def execRnd (x : Reg) (nn : Byte) (s : State) : Result :=
  .next (s.afterDraw.setV x (s.randomByte &&& nn)).advance

end Sys2Proof.Machine
end

