-- ==== Sys2Proof/Machine/ControlFlow.lean ====
section
/-!
DEFINITION. The control transfers (41_control_flow.md).
-/

namespace Sys2Proof.Machine

/-- `00EE` (R120): the popped address is that of the call; go on two bytes past it. -/
def execRet (s : State) : Result :=
  s.pop.andThen s (encode .ret) fun p => .next (p.2.setPc (p.1 + 2))

/-- `1nnn` (R122). -/
def execJp (nnn : Imm12) (s : State) : Result := .next (s.setPc (addrOf nnn))

/-- `2nnn` (R124): push the address of the call itself, then jump. -/
def execCall (nnn : Imm12) (s : State) : Result :=
  (s.push s.pc).andThen s (encode (.call nnn)) fun t => .next (t.setPc (addrOf nnn))

/-- `3xnn` (R127). -/
def execSeImm (x : Reg) (nn : Byte) (s : State) : Result := .next (s.skipIf (decide (s.getV x = nn)))

/-- `4xnn` (R128). -/
def execSneImm (x : Reg) (nn : Byte) (s : State) : Result := .next (s.skipIf (decide (s.getV x ≠ nn)))

/-- `5xy0` (R129). -/
def execSeReg (x y : Reg) (s : State) : Result := .next (s.skipIf (decide (s.getV x = s.getV y)))

/-- `9xy0` (R130). -/
def execSneReg (x y : Reg) (s : State) : Result := .next (s.skipIf (decide (s.getV x ≠ s.getV y)))

/-- `Bnnn` (R132): the sum is not reduced to 12 bits. -/
def execJpV0 (nnn : Imm12) (s : State) : Result := .next (s.setPc (addrOf nnn + wordOf (s.getV 0)))

end Sys2Proof.Machine
end

