-- ==== Sys2Proof/Machine/Display.lean ====
section
/-!
DEFINITION. The display instructions (40_display.md).
-/

namespace Sys2Proof.Machine

/-- `00E0` (R100): clear, publish, advance. -/
def execCls (s : State) : Result := .next (s.showFrame FrameBuffer.blank).advance

/-- Row `r` of the sprite at `I`: the byte at `(I + r) & 0xFFF` (R102). -/
def State.spriteRow (s : State) (r : Nat) : Byte := s.readByte (effAddr s.I r)

/-- The frame buffer and collision after drawing `n` rows at `(V[x], V[y])` (R102). -/
def State.drawn (s : State) (x y : Reg) (n : Nat) : Canvas :=
  Canvas.drawRows ⟨s.FB, false⟩ s.spriteRow (s.getV x).toNat (s.getV y).toNat n

/-- `Dxyn` (R102): draw, VF becomes the collision, publish, advance. -/
def execDrw (x y : Reg) (n : Nat) (s : State) : Result :=
  let k := s.drawn x y n
  .next ((s.setV VF (flagByte k.collision)).showFrame k.fb).advance

end Sys2Proof.Machine
end

