-- ==== Sys2Proof/Machine/IndexMemory.lean ====
section
/-!
DEFINITION. The index register and memory instructions (43_index_memory.md).
-/

namespace Sys2Proof.Machine

/-- `Annn` (R180). -/
def execLdI (nnn : Imm12) (s : State) : Result := .next (s.setI (addrOf nnn)).advance

/-- `Fx1E` (R182): masked to 12 bits, no flag. -/
def execAddI (x : Reg) (s : State) : Result :=
  .next (s.setI ((s.I + wordOf (s.getV x)) &&& 0xFFF#16)).advance

/-- `Fx29` (R184): the whole byte times 5. -/
def execLdF (x : Reg) (s : State) : Result := .next (s.setI (wordOf (s.getV x) * 5)).advance

/-- `Fx33` (R186): hundreds, tens, ones at `I`, `I + 1`, `I + 2`. -/
def execLdB (x : Reg) (s : State) : Result :=
  .next (s.storeBytes s.I 0 (decimalDigits (s.getV x))).advance

/-- `Fx55` (R188): `I` is not changed (log 25). -/
def execStoreRegs (x : Reg) (s : State) : Result :=
  .next (s.storeBytes s.I 0 (s.regsUpTo x)).advance

/-- `Fx65` (R190): `I` is not changed (log 25). -/
def execLoadRegs (x : Reg) (s : State) : Result := .next (s.loadUpTo s.I x).advance

end Sys2Proof.Machine
end

