-- ==== Sys2Proof/Machine/KeysTimers.lean ====
section
/-!
DEFINITION. The key and timer instructions (44_keys_timers.md).
-/

namespace Sys2Proof.Machine

/-- `Ex9E` (R200). -/
def execSkp (x : Reg) (s : State) : Result :=
  (s.keyDown (s.getV x)).andThen s (encode (.skp x)) fun down => .next (s.skipIf down)

/-- `ExA1` (R201). -/
def execSknp (x : Reg) (s : State) : Result :=
  (s.keyDown (s.getV x)).andThen s (encode (.sknp x)) fun down => .next (s.skipIf (!down))

/-- `Fx0A` (R203): with a key pressed, the lowest code; with none, the engine holds and nothing is written (R204, log 7). -/
def execLdVxK (x : Reg) (s : State) : Result :=
  match lowestKey s.keys with
  | some k => .next (s.setV x (codeOf k)).advance
  | none => .next s

/-- `Fx07` (R205). -/
def execLdVxDt (x : Reg) (s : State) : Result := .next (s.setV x s.DT).advance

/-- `Fx15` (R206). -/
def execLdDtVx (x : Reg) (s : State) : Result := .next (s.setDT (s.getV x)).advance

/-- `Fx18` (R207): the sound output follows at the next tick (log 27). -/
def execLdStVx (x : Reg) (s : State) : Result := .next (s.setST (s.getV x)).advance

end Sys2Proof.Machine
end

