-- ==== Sys2Proof/Machine/Environment.lean ====
section
/-!
DEFINITION. What the environment can do between engine steps (00_scope.md R21): change the keys, apply a tick, request a
stop; and the reset with its image (70_reset_and_hazards.md R260).
-/

namespace Sys2Proof.Machine

/-- A timer counts down by 1 and stops at 0 (60_exceptions.md R236). -/
def countDown (t : Byte) : Byte := if t = 0 then 0 else t - 1

/-- `Tick` (60_exceptions.md R236, R237): only while the core runs. -/
def State.tick (s : State) : State :=
  match s.run with
  | .running => { s with DT := countDown s.DT, ST := countDown s.ST, sound := decide (countDown s.ST ≠ 0) }
  | .halted _ => s

/-- The key source sets the whole matrix (10_state.md R48, R242). -/
def State.setKeys (s : State) (keys : Keys) : State := { s with keys := keys }

/-- The stop source requests a stop (10_state.md R49, log 18). -/
def State.requestStop (s : State) : State := { s with stop := true, sound := false }

/-- `Reset(image)` of a machine with the parameters `p` (70_reset_and_hazards.md R260, R261); `none` is an image the
loader could not supply. -/
def resetImage (p : Params) (image : Option (List Byte)) : Result :=
  match image with
  | none => .refused .imageUnreadable
  | some bytes =>
    if bytes.length + Config.progOrigin > Config.memSize then .refused .imageTooLarge
    else .next ((State.resetOf p).writeImage Config.progOrigin bytes)

end Sys2Proof.Machine
end

