-- ==== Sys2Proof/Machine/Engine.lean ====
section
/-!
DEFINITION. The engine step of 60_exceptions.md R220 and one turn of any agent.
-/

namespace Sys2Proof.Machine

/-- Decode and execute the fetched word `w` (60_exceptions.md R220, R224). -/
def State.runWord (s : State) (w : Word) : Result :=
  match decodeWord w with
  | .instr i => exec i s
  | .unsupported _ => .next (s.raiseFault .unsupportedOpcode (some w))

/-- `EngineStep` (60_exceptions.md R220), in the priority of R229. In a halted state the engine has no step (R235): the
state stays as it is (log 6). -/
def State.engineStep (s : State) : Result :=
  match s.run with
  | .halted _ => .next s
  | .running =>
    if s.stop then .next s.haltStopped
    else if s.pcInRange then s.runWord s.fetchWord
    else .next (s.raiseFault .illegalAddress none)

/-- One turn of the agent that is next. -/
def State.takeTurn (s : State) : Turn → Result
  | .engine => s.engineStep
  | .tick => .next s.tick
  | .setKeys keys => .next (s.setKeys keys)
  | .requestStop => .next s.requestStop

/-- The state in which the very next step fetches the word `w` at `pc` and runs it: the core running, no stop pending,
the engine's turn, `pc` legal, the word in memory (log 13). -/
def State.placeWord (s : State) (w : Word) : State :=
  let t := { s with run := .running, stop := false, turns := [],
                    pc := if s.pcInRange then s.pc else BitVec.ofNat 16 Config.progOrigin }
  t.writeImage t.pc.toNat (bytesOfWord w)

end Sys2Proof.Machine
end

