-- ==== Sys2Proof/Machine/Step.lean ====
section
/-!
DEFINITION. One step of the machine: the turn of whoever is next (00_scope.md R21), the engine when no turn is scheduled.
-/

namespace Sys2Proof.Machine

/-- One step (00_scope.md R21, 60_exceptions.md R220, R238; log 8). -/
def step (s : State) : Host.Outcome State Fault Refusal :=
  match s.turns with
  | [] => s.engineStep
  | t :: rest => { s with turns := rest }.takeTurn t

/-- The instruction of `nbits` bits `w` where the next step fetches it, bits above `nbits` zero (logs 12, 13). -/
def State.withFetchWord (s : State) (nbits w : Nat) : State := s.placeWord (BitVec.ofNat 16 (w % 2 ^ nbits))

end Sys2Proof.Machine
end

