-- ==== Sys2Proof/Safety.lean ====
section
/-!
DEFINITION. What a good state is (the invariant every step keeps), what one step executes, and what an instruction leaves
unchanged, in the terms the statements use.
-/

namespace Sys2Proof.Machine

/-! ### The invariant -/

/-- An address an instruction can be fetched from (60_exceptions.md R222). -/
abbrev fetchable (a : Word) : Prop := 0x200 ≤ a.toNat ∧ a.toNat ≤ 0xFFE

/-- The stack has STACK_CAPACITY slots, `0 ≤ sp ≤ STACK_CAPACITY` (10_state.md R39), and the slots in use hold addresses
of executed calls (41_control_flow.md R121). -/
abbrev State.StackOk (s : State) : Prop :=
  s.stack.length = s.params.stackCapacity ∧ s.sp ≤ s.params.stackCapacity ∧ ∀ a ∈ s.stack.take s.sp, fetchable a

/-- A halted core has its stop signal set; one halted by a fault has `sound` clear, `pc` at the recorded address, and a
recorded word unless the fetch itself was illegal (60_exceptions.md R221, R225, R226). -/
def State.statusOk (s : State) : Bool :=
  match s.run with
  | .running => true
  | .halted .stopped => s.stop
  | .halted (.fault kind p w) =>
    s.stop && !s.sound && s.pc == p && (w.isNone == (kind == .illegalAddress)) &&
      (decide (fetchable p) == (kind != .illegalAddress))

/-- The invariant: legal parameters (00_scope.md R11), memory in canonical form inside 0x000..0xFFF (20_memory.md R60), a
legal stack, `I` at most 0xFFF (10_state.md R38), `pc` at most 0x10FE (R35), a consistent status (R43). -/
abbrev State.Inv (s : State) : Prop :=
  s.params.ok ∧ Memory.wf s.params.font s.mem ∧ s.StackOk ∧ s.I.toNat ≤ 0xFFF ∧ s.pc.toNat ≤ 0x10FE ∧
    s.statusOk = true

/-! ### Steps -/

/-- Whose turn the next step is; the engine's when none is scheduled (log 8). -/
def State.nextTurn (s : State) : Turn := s.turns.headD .engine

/-- The state with that turn taken off the schedule. -/
def State.afterTurn (s : State) : State := { s with turns := s.turns.tail }

/-- The next step is an engine step that gets as far as decoding: the core runs, no stop is pending, `pc` is legal
(60_exceptions.md R220). -/
abbrev State.Fetches (s : State) : Prop :=
  s.nextTurn = .engine ∧ s.run = .running ∧ s.stop = false ∧ fetchable s.pc

/-- The next step executes the instruction `i`. -/
abbrev State.Executes (s : State) (i : Instr) : Prop :=
  s.Fetches ∧ decodeWord (wordOfBytes (s.readByte s.pc.toNat) (s.readByte (s.pc.toNat + 1))) = .instr i

/-- The next engine step of `s` finds `pc` outside 0x200..0xFFE and halts the core with that `pc` (60_exceptions.md R222). -/
abbrev State.IllegalAtFetch (s : State) : Prop :=
  s.engineStep = .next { s with stop := true, sound := false, run := .halted (.fault .illegalAddress s.pc none) }

/-- Apply `f` to the next state, if there is one. -/
def mapNext (f : State → State) : Result → Result
  | .next s => .next (f s)
  | .fault r => .fault r
  | .refused r => .refused r

/-- `n` ticks (60_exceptions.md R236). -/
def State.ticks (s : State) : Nat → State
  | 0 => s
  | n + 1 => s.tick.ticks n

/-! ### Frames -/

/-- What a step may write besides `pc`: the general registers and bytes listed, and the other pieces of state marked. -/
structure Effect where
  /-- general registers -/
  regs : List Reg := []
  /-- memory addresses -/
  bytes : List Nat := []
  /-- `I` -/
  index : Bool := false
  /-- the stack and `sp` -/
  stack : Bool := false
  /-- `DT` -/
  delay : Bool := false
  /-- `ST` -/
  soundTimer : Bool := false
  /-- the frame buffer and the published frames -/
  display : Bool := false
  /-- the random source's queue and counter -/
  random : Bool := false
deriving DecidableEq, Repr

/-- `t` differs from `s` in `pc` and in what `e` lists, at most. Every byte of memory not listed reads as before; `run`,
`stop` and `sound`, the keys, the schedule and the parameters are the same. -/
structure State.Frame (e : Effect) (s t : State) : Prop where
  regs : ∀ r, r ∉ e.regs → t.getV r = s.getV r
  bytes : ∀ a, a ∉ e.bytes → t.readByte a = s.readByte a
  index : e.index = false → t.I = s.I
  stack : e.stack = false → t.stack = s.stack ∧ t.sp = s.sp
  delay : e.delay = false → t.DT = s.DT
  soundTimer : e.soundTimer = false → t.ST = s.ST
  display : e.display = false → t.FB = s.FB ∧ t.frames = s.frames
  random : e.random = false → t.rand = s.rand ∧ t.draws = s.draws
  status : t.run = s.run ∧ t.stop = s.stop ∧ t.sound = s.sound
  inputs : t.keys = s.keys ∧ t.turns = s.turns ∧ t.params = s.params

/-! ### The sprite of `Dxyn`, cell by cell -/

/-- The sprite of `Dxyn` has a lit pixel on the cell `(r, c)`: for some sprite row `k` and column `j`, bit `7 - j` of the
byte at `(I + k) mod 4096` is 1, `r` is `(V[y] + k) mod 32` and `c` is `(V[x] + j) mod 64` (40_display.md R102, R103). -/
def State.spriteLit (s : State) (x y : Reg) (n : Nat) (r : Fin 32) (c : Fin 64) : Bool :=
  (List.range n).any fun k => (List.range 8).any fun j =>
    (s.readByte ((s.I.toNat + k) % 4096)).getLsbD (7 - j) &&
      (((s.getV y).toNat + k) % 32 == r.val) && (((s.getV x).toNat + j) % 64 == c.val)

end Sys2Proof.Machine
end

