-- ==== Sys2Proof/Certificates/Slice0/Obligations.lean ====
section
/-!
DEFINITION. The statements for the provers. Each docstring names the rule of spec/ it formalises; where a clause rests on
a decision of the spec's own (D<n>, 92_eei_decisions.md) or on a choice of the model (log <n>), it says so.

Addresses are written as the spec writes them, `(I + k) mod 4096` (20_memory.md R62). `State.Frame e s t` says that
nothing but `pc` and what `e` lists has changed.
-/

open Sys2Proof Sys2Proof.Machine

/-! ### Reset -/

/-- 10_state.md section 12: the value of every piece of state after reset with the empty image. The frame buffer, `stop`,
`sound` and `run` are the spec's decision D21; the font bytes are the parameter FONT of the machine. -/
def Obligations.ResetGivesEveryPieceItsValue : Prop :=
  ∀ p : Params, ∃ t : State, resetImage p (some []) = .next t ∧
    (∀ a : Nat, ∀ h : a < 80, t.readByte a = p.font[a]) ∧ (∀ a : Nat, 80 ≤ a → a < 4096 → t.readByte a = 0) ∧
    (∀ r : Reg, t.getV r = 0) ∧ t.I = 0 ∧ t.pc = 0x200#16 ∧ t.sp = 0 ∧
    t.stack.length = p.stackCapacity ∧ (∀ a ∈ t.stack, a = 0) ∧ t.DT = 0 ∧ t.ST = 0 ∧
    (∀ r c, FrameBuffer.cell t.FB r c = false) ∧ t.run = .running ∧ t.stop = false ∧ t.sound = false ∧
    t.params = p ∧ State.reset = State.resetOf Params.reference

/-- 70_reset_and_hazards.md section 1 (decision D21; the two errors as refusals are log 16): an image of at most 3584 bytes
is copied to 0x200 up, every other byte is the reset contents and nothing but memory depends on the image; a longer image,
and one the loader could not supply, make no machine. -/
def Obligations.ResetCopiesTheImageOrMakesNoMachine : Prop :=
  ∀ p : Params,
    (∀ image : List Byte, image.length ≤ 3584 → ∃ t : State, resetImage p (some image) = .next t ∧
      (∀ k : Nat, ∀ h : k < image.length, t.readByte (0x200 + k) = image[k]) ∧
      (∀ a : Nat, (a < 0x200 ∨ 0x200 + image.length ≤ a) → t.readByte a = (State.resetOf p).readByte a) ∧
      t = { State.resetOf p with mem := t.mem }) ∧
    (∀ image : List Byte, 3584 < image.length → resetImage p (some image) = .refused .imageTooLarge) ∧
    resetImage p none = .refused .imageUnreadable

/-- The invariant holds right after reset. -/
def Obligations.ResetMeetsTheInvariant : Prop := State.reset.Inv

/-- The invariant holds after every reset that makes a machine, whatever its parameters in the range of 00_scope.md R11 and
whatever its image. -/
def Obligations.EveryResetMachineMeetsTheInvariant : Prop :=
  ∀ (p : Params) (image : Option (List Byte)) (t : State), p.ok → resetImage p image = .next t → t.Inv

/-! ### Every step -/

/-- Every step of every agent keeps the invariant: memory in canonical form, `0 ≤ sp ≤ STACK_CAPACITY` with legal return
addresses in use, `I ≤ 0xFFF`, `pc ≤ 0x10FE`, a halted core with its stop signal set and its fault record consistent. -/
def Obligations.EveryStepKeepsTheInvariant : Prop :=
  ∀ s t : State, s.Inv → step s = .next t → t.Inv

/-- From a state of the invariant a step always answers a next state: no fault and no refusal of the model is reached. This is
about the model's form of a step. The spec gives a halted engine and an engine that holds in `Fx0A` no step at all
(60_exceptions.md sections 1 and 4), and that theirs answers a next state is the model's choice (logs 6 and 7); so are the
spec's faults as next states (log 5), `noSuchStackSlot` as the one stop of a step (log 15) and the other agents' turns as
steps (log 8). -/
def Obligations.AStepAlwaysAnswersANextState : Prop :=
  ∀ s : State, s.Inv → ∃ t : State, step s = .next t

/-! ### Decoding -/

/-- Words written out from the encodings of 30_encoding.md decode to the instructions they stand for (sub-opcode E of
family 8 is decision D4). -/
def Obligations.SampleWordsDecodeToTheirInstructions : Prop :=
  decodeWord 0b0000000011100000#16 = .instr .cls ∧
  decodeWord 0b0010010101010101#16 = .instr (.call 0x555#12) ∧
  decodeWord 0b0110101001000010#16 = .instr (.ldImm 0xA 0x42#8) ∧
  decodeWord 0b1000000100101110#16 = .instr (.shlReg 1 2) ∧
  decodeWord 0b1101000100101111#16 = .instr (.drw 1 2 15) ∧
  decodeWord 0b1110010110011110#16 = .instr (.skp 5) ∧
  decodeWord 0b1111101000110011#16 = .instr (.ldB 0xA) ∧
  decode [0xF2#8, 0x0A#8, 0x12#8] = .instr (.ldVxK 2) [0x12#8]

/-- Decoding the bytes of any well-formed instruction gives it back, with every operand, and leaves what follows: every
instruction is exactly two bytes, the byte at the lower address being bits 15..8. -/
def Obligations.DecodeOfEncodeIsTheInstruction : Prop :=
  ∀ (i : Instr) (rest : List Byte), i.wf = true →
    decode (encodeBytes i ++ rest) = .instr i rest ∧ (encodeBytes i).length = 2

/-- Each word has one meaning: a word that decodes to an instruction is that instruction's encoding, and the instruction is
well formed. -/
def Obligations.EncodeOfDecodeIsTheWord : Prop :=
  ∀ (w : Word) (i : Instr), decodeWord w = .instr i → encode i = w ∧ i.wf = true

/-- The decoder by cases (30_encoding.md section 2) and the opcode map by mask and match agree: a word that decodes to an
instruction matches that instruction's row and no other row, and a word that matches a row decodes to an instruction. -/
def Obligations.DecoderAgreesWithTheOpcodeMap : Prop :=
  (∀ (w : Word) (i : Instr), decodeWord w = .instr i →
    i.row.hits w = true ∧ i.row ∈ opcodeMap ∧ ∀ r ∈ opcodeMap, r.hits w = true → r = i.row) ∧
  (∀ (w : Word) (r : OpcodeRow), r ∈ opcodeMap → r.hits w = true → ∃ i : Instr, decodeWord w = .instr i)

/-- The unsupported words are exactly those of the table of 30_encoding.md section 3 (decisions D4, D10). -/
def Obligations.UnsupportedWordsAreExactlyTheTables : Prop :=
  ∀ w : Word, (∃ why, decodeWord w = .unsupported why) ↔
    ((w.toNat / 4096 = 0 ∧ w.toNat ≠ 0x00E0 ∧ w.toNat ≠ 0x00EE) ∨
     (w.toNat / 4096 = 5 ∧ w.toNat % 16 ≠ 0) ∨
     (w.toNat / 4096 = 8 ∧ w.toNat % 16 ∈ [8, 9, 10, 11, 12, 13, 15]) ∨
     (w.toNat / 4096 = 9 ∧ w.toNat % 16 ≠ 0) ∨
     (w.toNat / 4096 = 14 ∧ w.toNat % 256 ∉ [0x9E, 0xA1]) ∨
     (w.toNat / 4096 = 15 ∧ w.toNat % 256 ∉ [0x07, 0x0A, 0x15, 0x18, 0x1E, 0x29, 0x33, 0x55, 0x65]))

/-! ### The engine step -/

/-- 00_scope.md section 7 and 60_exceptions.md section 5: engine steps, ticks, key changes and stop requests interleave one
at a time, none of them part-way through another, and the engine's turn is one engine step. That the schedule is the list
`turns`, and an empty one means the engine, is the model's own form of it (log 8). -/
def Obligations.AStepIsTheTurnOfOneAgent : Prop :=
  ∀ s : State,
    (s.turns = [] → step s = s.engineStep) ∧
    (∀ (t : Turn) (rest : List Turn), s.turns = t :: rest → step s = { s with turns := rest }.takeTurn t) ∧
    (∀ t : Turn, s.nextTurn = t → step s = s.afterTurn.takeTurn t) ∧
    (s.nextTurn = .engine → step s = s.afterTurn.engineStep) ∧
    (∀ u : State, step s = .next u → u.turns = s.turns.tail)

/-- 20_memory.md section 3 and 60_exceptions.md section 1: with `pc` in range, the word is `mem[pc]` in bits 15..8 and
`mem[pc + 1]` in bits 7..0, unmasked, and the step is the execution of the instruction it decodes to. That the engine's
turn is taken off the schedule is the model's own (log 8). -/
def Obligations.StepExecutesTheBigEndianWordAtPc : Prop :=
  ∀ (s : State) (i : Instr), s.Fetches →
    decodeWord (((s.readByte s.pc.toNat).setWidth 16 <<< 8) ||| (s.readByte (s.pc.toNat + 1)).setWidth 16) = .instr i →
    step s = exec i s.afterTurn

/-- 60_exceptions.md R221: a set stop signal halts the core at its next engine step and nothing executes, whatever `pc`
holds; a stop requested between two engine steps is seen by the next one, also by an engine that holds in `Fx0A`; and
this is the only way a run stops without a fault. -/
def Obligations.StopIsCheckedBeforeAnythingElse : Prop :=
  ∀ s : State, s.run = .running →
    (s.stop = true → s.engineStep = .next { s with run := .halted .stopped }) ∧
    (s.requestStop.engineStep = .next { s with stop := true, sound := false, run := .halted .stopped }) ∧
    (∀ t : State, step s = .next t → t.run = .halted .stopped → s.stop = true ∧ s.nextTurn = .engine)

/-- 10_state.md section 11: a stop request sets `stop` and clears `sound`, and the stop source's turn does that and nothing
else; no step ever clears `stop`; the engine observes it at the start of its iteration, also while it holds in `Fx0A`. That
a request has this effect in a halted core too is the model's choice (log 18), and that the stop source moves by a turn of
its own is the model's form (log 8). -/
def Obligations.StopSignalIsMonotonic : Prop :=
  ∀ s : State,
    s.requestStop = { s with stop := true, sound := false } ∧
    (s.nextTurn = .requestStop → step s = .next { s.afterTurn with stop := true, sound := false }) ∧
    (∀ t : State, step s = .next t → s.stop = true → t.stop = true) ∧
    (s.run = .running → s.stop = true → ∃ t : State, s.engineStep = .next t ∧ t.run = .halted .stopped)

/-- 60_exceptions.md R222: a `pc` outside 0x200..0xFFE is a fault at the fetch, with no word recorded; a `pc` inside never
raises it. -/
def Obligations.PcOutOfRangeFaultsAtTheFetch : Prop :=
  ∀ s : State, s.run = .running → s.stop = false →
    (¬(0x200 ≤ s.pc.toNat ∧ s.pc.toNat ≤ 0xFFE) → s.engineStep = .next { s with
      stop := true, sound := false, run := .halted (.fault .illegalAddress s.pc none) }) ∧
    (0x200 ≤ s.pc.toNat ∧ s.pc.toNat ≤ 0xFFE → ∀ (t : State) (p : Word) (w : Option Word), s.engineStep = .next t →
      t.run ≠ .halted (.fault .illegalAddress p w))

/-- 60_exceptions.md R224: a fetched word that decodes to no instruction raises UnsupportedOpcode with that word, before
any write. -/
def Obligations.UnsupportedWordFaultsBeforeAnyWrite : Prop :=
  ∀ (s : State) (w : Word) (why : Unsupported), s.run = .running → s.stop = false →
    0x200 ≤ s.pc.toNat ∧ s.pc.toNat ≤ 0xFFE →
    w = ((s.readByte s.pc.toNat).setWidth 16 <<< 8) ||| (s.readByte (s.pc.toNat + 1)).setWidth 16 →
    decodeWord w = .unsupported why →
    s.engineStep = .next { s with
      stop := true, sound := false, run := .halted (.fault .unsupportedOpcode s.pc (some w)) }

/-- 60_exceptions.md section 2: whatever raises a fault, the state it leaves is the state before the engine step with `stop`
set, `sound` clear and the fault recorded at the unchanged `pc`; the recorded word is the word fetched at `pc`; no further
instruction executes. That later steps change nothing at all but the environment's own keys and the schedule rests on the
spec's decision D26 (no tick after the end of a run, log 36), on the model's form of a halted engine's turn (log 6) and of
a stop request in a halted core (log 18). -/
def Obligations.AFaultIsPreciseAndFatal : Prop :=
  ∀ (s t : State) (kind : FaultKind) (p : Word) (w : Option Word),
    s.run = .running → s.engineStep = .next t → t.run = .halted (.fault kind p w) →
    t = { s with stop := true, sound := false, run := .halted (.fault kind s.pc w) } ∧
    (w = none ↔ kind = .illegalAddress) ∧
    (∀ v, w = some v → v = ((s.readByte s.pc.toNat).setWidth 16 <<< 8) ||| (s.readByte (s.pc.toNat + 1)).setWidth 16) ∧
    ∀ u : State, step t = .next u → u = { t with keys := u.keys, turns := u.turns }

/-- 60_exceptions.md section 4 (decision D26; the engine's turn in a halted state as a step that changes nothing is log 6):
Halted is final. No step changes the registers, memory, timers, frame buffer or the reason; the environment may still
change the keys and the stop source may still request a stop
(log 18). -/
def Obligations.HaltedIsFinal : Prop :=
  ∀ (s t : State) (r : HaltReason), s.run = .halted r → step s = .next t →
    t = { s with stop := t.stop, sound := t.sound, keys := t.keys, turns := t.turns } ∧
    (s.nextTurn = .engine ∨ s.nextTurn = .tick → t = s.afterTurn)

/-- 60_exceptions.md sections 1 and 4: a run ends only by the stop check, with the stop signal set, or by a fault, both at
the engine's turn; ticks, key changes and stop requests do not end it
(decision D26, log 36). -/
def Obligations.ARunEndsOnlyByTheStopCheckOrAFault : Prop :=
  ∀ s t : State, s.run = .running → step s = .next t → t.run ≠ .running →
    s.nextTurn = .engine ∧
    ((s.stop = true ∧ t.run = .halted .stopped) ∨
     (s.stop = false ∧ ∃ (kind : FaultKind) (w : Option Word), t.run = .halted (.fault kind s.pc w)))

/-! ### Timers -/

/-- 60_exceptions.md section 5 (decisions D13, D14): a tick takes 1 from each timer that is not 0 and then sets `sound` to
`ST != 0`; it changes nothing else, and nothing at all in a halted core (decision
D26, log 36). -/
def Obligations.TickCountsBothTimersDown : Prop :=
  ∀ s : State, s.nextTurn = .tick →
    ∃ t : State, step s = .next t ∧
      (s.run = .running → t.DT.toNat = s.DT.toNat - 1 ∧ t.ST.toNat = s.ST.toNat - 1 ∧
        (t.sound = true ↔ t.ST ≠ 0) ∧
        t = { s.afterTurn with DT := t.DT, ST := t.ST, sound := t.sound }) ∧
      (∀ r, s.run = .halted r → t = s.afterTurn)

/-- 60_exceptions.md section 5 (any number of ticks between engine steps, decision D13, log 30): `n` ticks of a running core
take `n` from each timer, stopping at 0, so a timer set to `n` reaches 0 after `n` ticks and stays there, and registers and
`pc` never change by a tick. After one tick or more, `sound` is true exactly when the sound timer was above `n` (decision
D14, log 27; with a stop pending, log 19). -/
def Obligations.ManyTicksReachZeroAndStay : Prop :=
  ∀ (n : Nat) (s : State), s.run = .running →
    (s.ticks n).DT.toNat = s.DT.toNat - n ∧ (s.ticks n).ST.toNat = s.ST.toNat - n ∧
    (0 < n → ((s.ticks n).sound = true ↔ n < s.ST.toNat)) ∧
    s.ticks n = { s with DT := (s.ticks n).DT, ST := (s.ticks n).ST, sound := (s.ticks n).sound }

/-- 10_state.md sections 5 and 6: the delay timer is written only by `Fx15` and the tick, the sound timer only by `Fx18`
and the tick, the sound output only by the tick, a stop request and the end of a run. That `Fx18` leaves the sound output
to the next tick is the spec's decision D14 (log 27), and that a tick writes only in a running core D13 and D26 (logs 30,
36); that a stop request writes it in a halted core too is the model's choice (log 18). -/
def Obligations.TimersAreWrittenOnlyByTheirInstructionsAndTicks : Prop :=
  ∀ s t : State, step s = .next t →
    (t.DT ≠ s.DT → (s.nextTurn = .tick ∧ s.run = .running) ∨ ∃ x, s.Executes (.ldDtVx x)) ∧
    (t.ST ≠ s.ST → (s.nextTurn = .tick ∧ s.run = .running) ∨ ∃ x, s.Executes (.ldStVx x)) ∧
    (t.sound ≠ s.sound → (s.nextTurn = .tick ∧ s.run = .running) ∨ s.nextTurn = .requestStop ∨ t.run ≠ s.run)

/-! ### Display -/

/-- 40_display.md, CLS (that it publishes even a clear frame buffer is decision D27). -/
def Obligations.ClsClearsAndPublishes : Prop :=
  ∀ s : State, decodeWord 0x00E0#16 = .instr .cls ∧ ∃ t : State, exec .cls s = .next t ∧
    (∀ r c, FrameBuffer.cell t.FB r c = false) ∧ t.frames = t.FB :: s.frames ∧ t.pc = s.pc + 2 ∧
    State.Frame { display := true } s t

/-- 40_display.md, DRW (bit order D3, latched operands D7, publishing D27, orientation D29): every cell is XORed with the
sprite, wrapped per pixel; VF is 1 exactly when the sprite lights a cell that was true; the new frame buffer is published. -/
def Obligations.DrwXorsTheWrappedSpriteAndReportsCollision : Prop :=
  ∀ (x y : Reg) (n : Nat) (s : State), n ≤ 15 →
    decodeWord (0xD000#16 ||| placeX x ||| placeY y ||| BitVec.ofNat 16 n) = .instr (.drw x y n) ∧
    ∃ t : State, exec (.drw x y n) s = .next t ∧
      (∀ r c, FrameBuffer.cell t.FB r c = (FrameBuffer.cell s.FB r c ^^ s.spriteLit x y n r c)) ∧
      (t.getV VF = 1 ∨ t.getV VF = 0) ∧
      (t.getV VF = 1 ↔ ∃ r c, s.spriteLit x y n r c = true ∧ FrameBuffer.cell s.FB r c = true) ∧
      t.frames = t.FB :: s.frames ∧ t.pc = s.pc + 2 ∧ State.Frame { regs := [VF], display := true } s t

/-- 10_state.md section 7: the frame buffer changes, and a frame is published, only when `00E0` or `Dxyn` executes; each
of them publishes the frame buffer it leaves (decision D27, log 37). -/
def Obligations.FrameBufferIsWrittenOnlyByClsAndDrw : Prop :=
  ∀ s t : State, step s = .next t → (t.FB ≠ s.FB ∨ t.frames ≠ s.frames) →
    (s.Executes .cls ∨ ∃ x y n, s.Executes (.drw x y n)) ∧ t.frames = t.FB :: s.frames

/-! ### Control transfer -/

/-- 41_control_flow.md, RET with a return address on the stack (the address is the call's, decision D23; the slot keeps its
value, D24). -/
def Obligations.RetReturnsTwoBytesPastTheCall : Prop :=
  ∀ (s : State) (a : Word), s.sp ≠ 0 → s.stack[s.sp - 1]? = some a →
    decodeWord 0x00EE#16 = .instr .ret ∧ ∃ t : State, exec .ret s = .next t ∧
      t.sp = s.sp - 1 ∧ t.stack = s.stack ∧ t.pc = a + 2 ∧ State.Frame { stack := true } s t

/-- 41_control_flow.md, CALL with room on the stack: the address of the call itself is pushed (decision D23). -/
def Obligations.CallPushesItsOwnAddressAndJumps : Prop :=
  ∀ (nnn : Imm12) (s : State), s.stack.length = s.params.stackCapacity → s.sp < s.params.stackCapacity →
    decodeWord (0x2000#16 ||| nnn.setWidth 16) = .instr (.call nnn) ∧ ∃ t : State, exec (.call nnn) s = .next t ∧
      t.stack[s.sp]? = some s.pc ∧ (∀ k : Nat, k ≠ s.sp → t.stack[k]? = s.stack[k]?) ∧ t.sp = s.sp + 1 ∧
      t.pc.toNat = nnn.toNat ∧ State.Frame { stack := true } s t

/-- 41_control_flow.md and 60_exceptions.md section 2: a full stack faults the call and an empty one the return, before any
write, with the instruction's address and word recorded (STACK_CAPACITY is decision D1). -/
def Obligations.FullStackFaultsCallAndEmptyStackFaultsRet : Prop :=
  ∀ s : State,
    (∀ nnn : Imm12, s.sp = s.params.stackCapacity → exec (.call nnn) s = .next { s with
      stop := true, sound := false, run := .halted (.fault .stackOverflow s.pc (some (0x2000#16 ||| nnn.setWidth 16))) }) ∧
    (s.sp = 0 → exec .ret s = .next { s with
      stop := true, sound := false, run := .halted (.fault .stackUnderflow s.pc (some 0x00EE#16)) })

/-- 41_control_flow.md section 1 (decision D23): after a call, a return executed with the same stack resumes two bytes past
the call with the stack pointer as before, whatever ran in between. -/
def Obligations.ReturnUndoesTheCall : Prop :=
  ∀ (nnn : Imm12) (s u : State), s.stack.length = s.params.stackCapacity → s.sp < s.params.stackCapacity →
    ∃ t : State, exec (.call nnn) s = .next t ∧
      (u.stack = t.stack → u.sp = t.sp → ∃ v : State, exec .ret u = .next v ∧ v.pc = s.pc + 2 ∧ v.sp = s.sp)

/-- 41_control_flow.md R122: `pc` becomes `nnn` and nothing else changes; the jump itself never faults, and a target outside
0x200..0xFFE faults at the next fetch. -/
def Obligations.JpSetsPc : Prop :=
  ∀ (nnn : Imm12) (s : State), decodeWord (0x1000#16 ||| nnn.setWidth 16) = .instr (.jp nnn) ∧
    ∃ t : State, exec (.jp nnn) s = .next t ∧ t.pc.toNat = nnn.toNat ∧ State.Frame { } s t ∧
      (s.run = .running → s.stop = false → nnn.toNat < 0x200 ∨ nnn.toNat = 0xFFF → t.IllegalAtFetch)

/-- 41_control_flow.md R127, R128: `pc` goes on by 4 when the register equals (`3xnn`), or differs from (`4xnn`), the
immediate, else by 2; nothing else changes. -/
def Obligations.SkipsCompareARegisterWithAnImmediate : Prop :=
  ∀ (x : Reg) (nn : Byte) (s : State),
    (decodeWord (0x3000#16 ||| placeX x ||| nn.setWidth 16) = .instr (.seImm x nn) ∧
      ∃ t : State, exec (.seImm x nn) s = .next t ∧
        t.pc = (if (s.getV x).toNat = nn.toNat then s.pc + 4 else s.pc + 2) ∧ State.Frame { } s t) ∧
    (decodeWord (0x4000#16 ||| placeX x ||| nn.setWidth 16) = .instr (.sneImm x nn) ∧
      ∃ t : State, exec (.sneImm x nn) s = .next t ∧
        t.pc = (if (s.getV x).toNat ≠ nn.toNat then s.pc + 4 else s.pc + 2) ∧ State.Frame { } s t)

/-- 41_control_flow.md section 2: `pc` goes on by 4 when the registers are equal (`5xy0`), or differ (`9xy0`), else by 2;
nothing else changes. That a word with a non-zero low nibble is unsupported is the spec's decision D10 (log 28). -/
def Obligations.SkipsCompareTwoRegisters : Prop :=
  ∀ (x y : Reg) (s : State),
    (decodeWord (0x5000#16 ||| placeX x ||| placeY y) = .instr (.seReg x y) ∧
      (∀ n : BitVec 4, n ≠ 0 → ∃ why,
        decodeWord (0x5000#16 ||| placeX x ||| placeY y ||| n.setWidth 16) = .unsupported why) ∧
      ∃ t : State, exec (.seReg x y) s = .next t ∧
        t.pc = (if (s.getV x).toNat = (s.getV y).toNat then s.pc + 4 else s.pc + 2) ∧ State.Frame { } s t) ∧
    (decodeWord (0x9000#16 ||| placeX x ||| placeY y) = .instr (.sneReg x y) ∧
      (∀ n : BitVec 4, n ≠ 0 → ∃ why,
        decodeWord (0x9000#16 ||| placeX x ||| placeY y ||| n.setWidth 16) = .unsupported why) ∧
      ∃ t : State, exec (.sneReg x y) s = .next t ∧
        t.pc = (if (s.getV x).toNat ≠ (s.getV y).toNat then s.pc + 4 else s.pc + 2) ∧ State.Frame { } s t)

/-- 41_control_flow.md R132: `pc` becomes `nnn + V[0]`, not masked, and nothing else changes; a sum outside 0x200..0xFFE
faults at the next fetch. -/
def Obligations.JpV0AddsV0Unmasked : Prop :=
  ∀ (nnn : Imm12) (s : State), decodeWord (0xB000#16 ||| nnn.setWidth 16) = .instr (.jpV0 nnn) ∧
    ∃ t : State, exec (.jpV0 nnn) s = .next t ∧ t.pc.toNat = nnn.toNat + (s.getV 0).toNat ∧ State.Frame { } s t ∧
      (s.run = .running → s.stop = false →
        ¬(0x200 ≤ nnn.toNat + (s.getV 0).toNat ∧ nnn.toNat + (s.getV 0).toNat ≤ 0xFFE) → t.IllegalAtFetch)

/-- 10_state.md section 5: `I` is written only by `Annn`, `Fx1E`, `Fx29`, so not by `Fx55` and `Fx65` (decision D9, log 25);
`sp` only by `2nnn` and `00EE`, the stack's slots only by `2nnn`, since a return keeps its slot (decision D24, log 35); the
parameters by nothing (log 4). -/
def Obligations.IndexAndStackAreWrittenOnlyByTheirInstructions : Prop :=
  ∀ s t : State, step s = .next t →
    (t.I ≠ s.I → (∃ nnn, s.Executes (.ldI nnn)) ∨ (∃ x, s.Executes (.addI x)) ∨ ∃ x, s.Executes (.ldF x)) ∧
    (t.stack ≠ s.stack → ∃ nnn, s.Executes (.call nnn)) ∧
    (t.sp ≠ s.sp → (∃ nnn, s.Executes (.call nnn)) ∨ s.Executes .ret) ∧ t.params = s.params

/-! ### Registers and arithmetic -/

/-- 42_alu.md R154: the word loads `nn` into `V[x]`; VF changes only if `x = F`, and nothing else but `pc` changes. -/
def Obligations.LdImmLoadsTheByte : Prop :=
  ∀ (x : Reg) (nn : Byte) (s : State), decodeWord (0x6000#16 ||| placeX x ||| nn.setWidth 16) = .instr (.ldImm x nn) ∧
    ∃ t : State, exec (.ldImm x nn) s = .next t ∧ t.getV x = nn ∧ t.pc = s.pc + 2 ∧ State.Frame { regs := [x] } s t

/-- 42_alu.md R155: `V[x]` becomes the sum modulo 256; no flag is written, and nothing else but `pc` changes. -/
def Obligations.AddImmWrapsWithoutFlag : Prop :=
  ∀ (x : Reg) (nn : Byte) (s : State), decodeWord (0x7000#16 ||| placeX x ||| nn.setWidth 16) = .instr (.addImm x nn) ∧
    ∃ t : State, exec (.addImm x nn) s = .next t ∧ (t.getV x).toNat = ((s.getV x).toNat + nn.toNat) % 256 ∧
      t.pc = s.pc + 2 ∧ State.Frame { regs := [x] } s t

/-- 42_alu.md R156: `V[x]` becomes `V[y]`, and nothing else but `pc` changes. -/
def Obligations.LdRegCopiesTheRegister : Prop :=
  ∀ (x y : Reg) (s : State), decodeWord (0x8000#16 ||| placeX x ||| placeY y) = .instr (.ldReg x y) ∧
    ∃ t : State, exec (.ldReg x y) s = .next t ∧ t.getV x = s.getV y ∧ t.pc = s.pc + 2 ∧
      State.Frame { regs := [x] } s t

/-- 42_alu.md section 3, OR, AND, XOR, bit by bit; VF is not reset (decision D8). -/
def Obligations.LogicCombinesBitsAndKeepsVF : Prop :=
  ∀ (x y : Reg) (s : State),
    (decodeWord (0x8001#16 ||| placeX x ||| placeY y) = .instr (.orReg x y) ∧
      ∃ t : State, exec (.orReg x y) s = .next t ∧ t.pc = s.pc + 2 ∧ State.Frame { regs := [x] } s t ∧
        ∀ i : Nat, (t.getV x).getLsbD i = ((s.getV x).getLsbD i || (s.getV y).getLsbD i)) ∧
    (decodeWord (0x8002#16 ||| placeX x ||| placeY y) = .instr (.andReg x y) ∧
      ∃ t : State, exec (.andReg x y) s = .next t ∧ t.pc = s.pc + 2 ∧ State.Frame { regs := [x] } s t ∧
        ∀ i : Nat, (t.getV x).getLsbD i = ((s.getV x).getLsbD i && (s.getV y).getLsbD i)) ∧
    (decodeWord (0x8003#16 ||| placeX x ||| placeY y) = .instr (.xorReg x y) ∧
      ∃ t : State, exec (.xorReg x y) s = .next t ∧ t.pc = s.pc + 2 ∧ State.Frame { regs := [x] } s t ∧
        ∀ i : Nat, (t.getV x).getLsbD i = ((s.getV x).getLsbD i ^^ (s.getV y).getLsbD i))

/-- 42_alu.md section 3, ADD Vx, Vy: both operands latched, VF the carry unless `x = F`, where VF ends with the sum
(decision D7). -/
def Obligations.AddRegSetsCarryThenResult : Prop :=
  ∀ (x y : Reg) (s : State), decodeWord (0x8004#16 ||| placeX x ||| placeY y) = .instr (.addReg x y) ∧
    ∃ t : State, exec (.addReg x y) s = .next t ∧
      (t.getV x).toNat = ((s.getV x).toNat + (s.getV y).toNat) % 256 ∧
      (x ≠ VF → t.getV VF = if (s.getV x).toNat + (s.getV y).toNat > 255 then 1 else 0) ∧
      t.pc = s.pc + 2 ∧ State.Frame { regs := [x, VF] } s t

/-- 42_alu.md section 3, SUB Vx, Vy: VF is 1 iff `V[x] > V[y]` strictly, unless `x = F` (decision D7). -/
def Obligations.SubRegSetsStrictFlagThenDifference : Prop :=
  ∀ (x y : Reg) (s : State), decodeWord (0x8005#16 ||| placeX x ||| placeY y) = .instr (.subReg x y) ∧
    ∃ t : State, exec (.subReg x y) s = .next t ∧
      (t.getV x).toNat = (256 + (s.getV x).toNat - (s.getV y).toNat) % 256 ∧
      (x ≠ VF → t.getV VF = if (s.getV x).toNat > (s.getV y).toNat then 1 else 0) ∧
      t.pc = s.pc + 2 ∧ State.Frame { regs := [x, VF] } s t

/-- 42_alu.md section 3, SUBN Vx, Vy: `V[y] - V[x]`, VF is 1 iff `V[y] > V[x]` strictly, unless `x = F` (decisions D4, D5,
D7). -/
def Obligations.SubnRegSetsStrictFlagThenReverseDifference : Prop :=
  ∀ (x y : Reg) (s : State), decodeWord (0x8007#16 ||| placeX x ||| placeY y) = .instr (.subnReg x y) ∧
    ∃ t : State, exec (.subnReg x y) s = .next t ∧
      (t.getV x).toNat = (256 + (s.getV y).toNat - (s.getV x).toNat) % 256 ∧
      (x ≠ VF → t.getV VF = if (s.getV y).toNat > (s.getV x).toNat then 1 else 0) ∧
      t.pc = s.pc + 2 ∧ State.Frame { regs := [x, VF] } s t

/-- 42_alu.md section 3, SHR and SHL, for either value of SHIFT_SOURCE (decisions D4, D6, D7): the bit shifted out goes to
VF unless `x = F`. -/
def Obligations.ShiftsMoveOneBitAndKeepItInVF : Prop :=
  ∀ (x y r : Reg) (s : State), r = (if s.params.shiftSource = .x then x else y) →
    (decodeWord (0x8006#16 ||| placeX x ||| placeY y) = .instr (.shrReg x y) ∧
      ∃ t : State, exec (.shrReg x y) s = .next t ∧ (t.getV x).toNat = (s.getV r).toNat / 2 ∧
        (x ≠ VF → (t.getV VF).toNat = (s.getV r).toNat % 2) ∧
        t.pc = s.pc + 2 ∧ State.Frame { regs := [x, VF] } s t) ∧
    (decodeWord (0x800E#16 ||| placeX x ||| placeY y) = .instr (.shlReg x y) ∧
      ∃ t : State, exec (.shlReg x y) s = .next t ∧ (t.getV x).toNat = (s.getV r).toNat * 2 % 256 ∧
        (x ≠ VF → (t.getV VF).toNat = (s.getV r).toNat / 128) ∧
        t.pc = s.pc + 2 ∧ State.Frame { regs := [x, VF] } s t)

/-- 42_alu.md section 4 and 10_state.md section 11 (decision D22; the source as a queue with a free value behind it is log
10): the result is one drawn byte masked by `nn`, a byte the source has ready is that byte, and every byte is possible. -/
def Obligations.RndMasksOneDrawnByte : Prop :=
  ∀ (x : Reg) (nn : Byte) (s : State), decodeWord (0xC000#16 ||| placeX x ||| nn.setWidth 16) = .instr (.rnd x nn) ∧
    (∃ (t : State) (b : Byte), exec (.rnd x nn) s = .next t ∧ t.getV x = b &&& nn ∧
      (∀ (b' : Byte) (rest : List Byte), s.rand = b' :: rest → b = b' ∧ t.rand = rest) ∧ t.draws = s.draws + 1 ∧
      t.pc = s.pc + 2 ∧ State.Frame { regs := [x], random := true } s t) ∧
    (∀ b : Byte, ∃ t : State, exec (.rnd x nn) { s with rand := [b] } = .next t ∧ t.getV x = b &&& nn)

/-! ### Index register and memory -/

/-- 43_index_memory.md R180: `I` becomes `nnn`, any address, and nothing else but `pc` changes. -/
def Obligations.LdILoadsTheAddress : Prop :=
  ∀ (nnn : Imm12) (s : State), decodeWord (0xA000#16 ||| nnn.setWidth 16) = .instr (.ldI nnn) ∧
    ∃ t : State, exec (.ldI nnn) s = .next t ∧ t.I.toNat = nnn.toNat ∧ t.pc = s.pc + 2 ∧
      State.Frame { index := true } s t

/-- 43_index_memory.md R182: `I` becomes the sum masked to 12 bits; no flag is written, nothing else but `pc` changes. -/
def Obligations.AddIWrapsAtTwelveBits : Prop :=
  ∀ (x : Reg) (s : State), decodeWord (0xF01E#16 ||| placeX x) = .instr (.addI x) ∧
    ∃ t : State, exec (.addI x) s = .next t ∧ t.I.toNat = (s.I.toNat + (s.getV x).toNat) % 4096 ∧
      t.pc = s.pc + 2 ∧ State.Frame { index := true } s t

/-- 43_index_memory.md R184: `I` becomes the whole byte times 5, and nothing else but `pc` changes. -/
def Obligations.LdFPointsAtTheGlyph : Prop :=
  ∀ (x : Reg) (s : State), decodeWord (0xF029#16 ||| placeX x) = .instr (.ldF x) ∧
    ∃ t : State, exec (.ldF x) s = .next t ∧ t.I.toNat = (s.getV x).toNat * 5 ∧ t.pc = s.pc + 2 ∧
      State.Frame { index := true } s t

/-- 43_index_memory.md section 2, LD B (writes anywhere, decision D11): the three decimal digits at `I`, `I + 1`, `I + 2`
modulo 4096, and every other byte as before. -/
def Obligations.LdBStoresTheDecimalDigits : Prop :=
  ∀ (x : Reg) (s : State), decodeWord (0xF033#16 ||| placeX x) = .instr (.ldB x) ∧
    ∃ t : State, exec (.ldB x) s = .next t ∧
      (t.readByte (s.I.toNat % 4096)).toNat = (s.getV x).toNat / 100 ∧
      (t.readByte ((s.I.toNat + 1) % 4096)).toNat = (s.getV x).toNat / 10 % 10 ∧
      (t.readByte ((s.I.toNat + 2) % 4096)).toNat = (s.getV x).toNat % 10 ∧ t.pc = s.pc + 2 ∧
      State.Frame { bytes := [s.I.toNat % 4096, (s.I.toNat + 1) % 4096, (s.I.toNat + 2) % 4096] } s t

/-- 43_index_memory.md section 2, LD [I], Vx (`I` unchanged D9, writes anywhere D11): `V[0]..V[x]` at `(I + k) mod 4096`,
and every other byte as before. -/
def Obligations.StoreRegsStoresThroughI : Prop :=
  ∀ (x : Reg) (s : State), decodeWord (0xF055#16 ||| placeX x) = .instr (.storeRegs x) ∧
    ∃ t : State, exec (.storeRegs x) s = .next t ∧
      (∀ k : Reg, k ≤ x → t.readByte ((s.I.toNat + k.val) % 4096) = s.getV k) ∧ t.pc = s.pc + 2 ∧
      State.Frame { bytes := (List.range (x.val + 1)).map fun k => (s.I.toNat + k) % 4096 } s t

/-- 43_index_memory.md section 2, LD Vx, [I] (`I` unchanged, decision D9). -/
def Obligations.LoadRegsLoadsThroughI : Prop :=
  ∀ (x : Reg) (s : State), decodeWord (0xF065#16 ||| placeX x) = .instr (.loadRegs x) ∧
    ∃ t : State, exec (.loadRegs x) s = .next t ∧
      (∀ k : Reg, k ≤ x → t.getV k = s.readByte ((s.I.toNat + k.val) % 4096)) ∧ t.pc = s.pc + 2 ∧
      State.Frame { regs := (List.finRange 16).filter fun k => decide (k ≤ x) } s t

/-- 20_memory.md sections 1 and 5: memory is written only by `Fx33` and `Fx55`. -/
def Obligations.MemoryIsWrittenOnlyByStores : Prop :=
  ∀ s t : State, step s = .next t → (∃ a : Nat, t.readByte a ≠ s.readByte a) →
    (∃ x, s.Executes (.ldB x)) ∨ ∃ x, s.Executes (.storeRegs x)

/-- 20_memory.md section 5: a byte written by `Fx33` or `Fx55`, for every `x`, is seen by the next fetch of its address. `bs`
are the bytes the instruction stores, the `k`-th at `a = (I + k) mod 4096`, and `u` any later state in which nothing has
written `a` since: its fetch from `pc = a` has the byte in bits 15..8, its fetch from `pc = a - 1` in bits 7..0, and that
fetched word is the one its engine step decodes and executes. (Writes anywhere are decision D11, log 26.) -/
def Obligations.AStoreIsSeenByTheNextFetch : Prop :=
  ∀ (i : Instr) (s : State) (bs : List Byte),
    ((∃ x : Reg, i = .storeRegs x ∧ bs = (List.range (x.val + 1)).map fun k => s.getV (Fin.ofNat 16 k)) ∨
     (∃ x : Reg, i = .ldB x ∧ bs.map BitVec.toNat =
        [(s.getV x).toNat / 100, (s.getV x).toNat / 10 % 10, (s.getV x).toNat % 10])) →
    ∃ t : State, exec i s = .next t ∧ t.pc = s.pc + 2 ∧
      ∀ (k : Nat) (h : k < bs.length) (a : Nat) (u : State),
        a = (s.I.toNat + k) % 4096 → u.readByte a = t.readByte a →
        (u.pc.toNat = a → u.fetchWord.toNat / 256 = bs[k].toNat) ∧
        (u.pc.toNat + 1 = a → u.fetchWord.toNat % 256 = bs[k].toNat) ∧
        (u.run = .running → u.stop = false → fetchable u.pc → u.engineStep = u.runWord u.fetchWord)

/-! ### Keys and timer instructions -/

/-- 44_keys_timers.md section 1 (decisions D16, D28): SKP and SKNP with a key code of at most 0xF. -/
def Obligations.KeySkipsFollowTheMatrix : Prop :=
  ∀ (x k : Reg) (s : State), (s.getV x).toNat = k.val →
    (decodeWord (0xE09E#16 ||| placeX x) = .instr (.skp x) ∧ ∃ t : State, exec (.skp x) s = .next t ∧
      t.pc = (if s.keys.get k then s.pc + 4 else s.pc + 2) ∧ State.Frame { } s t) ∧
    (decodeWord (0xE0A1#16 ||| placeX x) = .instr (.sknp x) ∧ ∃ t : State, exec (.sknp x) s = .next t ∧
      t.pc = (if s.keys.get k then s.pc + 2 else s.pc + 4) ∧ State.Frame { } s t)

/-- 44_keys_timers.md section 1 (decision D16): a key code above 0xF is a fatal fault raised before the skip. -/
def Obligations.KeyCodeAboveFFaults : Prop :=
  ∀ (x : Reg) (s : State), 0xF < (s.getV x).toNat →
    exec (.skp x) s = .next { s with
      stop := true, sound := false, run := .halted (.fault .keyOutOfRange s.pc (some (0xE09E#16 ||| placeX x))) } ∧
    exec (.sknp x) s = .next { s with
      stop := true, sound := false, run := .halted (.fault .keyOutOfRange s.pc (some (0xE0A1#16 ||| placeX x))) }

/-- 44_keys_timers.md section 2: with a key pressed `Fx0A` stores the lowest pressed code and advances; with none it writes
nothing and `pc` stays (the hold as a step that changes nothing is log 7). -/
def Obligations.WaitForKeyTakesTheLowestOrHolds : Prop :=
  ∀ (x : Reg) (s : State), decodeWord (0xF00A#16 ||| placeX x) = .instr (.ldVxK x) ∧
    (∀ k : Reg, s.keys.get k = true → (∀ j : Reg, j < k → s.keys.get j = false) →
      ∃ t : State, exec (.ldVxK x) s = .next t ∧ (t.getV x).toNat = k.val ∧ t.pc = s.pc + 2 ∧
        State.Frame { regs := [x] } s t) ∧
    ((∀ k : Reg, s.keys.get k = false) → exec (.ldVxK x) s = .next s)

/-- 44_keys_timers.md section 3, LD Vx, DT: `V[x]` becomes the delay timer, and nothing else but `pc` changes. -/
def Obligations.LdVxDtReadsTheDelayTimer : Prop :=
  ∀ (x : Reg) (s : State), decodeWord (0xF007#16 ||| placeX x) = .instr (.ldVxDt x) ∧
    ∃ t : State, exec (.ldVxDt x) s = .next t ∧ t.getV x = s.DT ∧ t.pc = s.pc + 2 ∧ State.Frame { regs := [x] } s t

/-- 44_keys_timers.md R206: `DT` becomes `V[x]` and nothing else but `pc` changes; the value is counted down by the ticks
after this step, not by it, and 0 stays 0. -/
def Obligations.LdDtVxSetsTheDelayTimer : Prop :=
  ∀ (x : Reg) (s : State), decodeWord (0xF015#16 ||| placeX x) = .instr (.ldDtVx x) ∧
    ∃ t : State, exec (.ldDtVx x) s = .next t ∧ t.DT = s.getV x ∧ t.pc = s.pc + 2 ∧
      State.Frame { delay := true } s t ∧
      (s.run = .running → ∀ n : Nat, (t.ticks n).DT.toNat = (s.getV x).toNat - n)

/-- 44_keys_timers.md section 3, LD ST, Vx: the sound output changes only at the next tick (decision D14). -/
def Obligations.LdStVxSetsTheSoundTimer : Prop :=
  ∀ (x : Reg) (s : State), decodeWord (0xF018#16 ||| placeX x) = .instr (.ldStVx x) ∧
    ∃ t : State, exec (.ldStVx x) s = .next t ∧ t.ST = s.getV x ∧ t.pc = s.pc + 2 ∧
      State.Frame { soundTimer := true } s t ∧
      (s.run = .running → (t.tick.sound = true ↔ 1 < (s.getV x).toNat))

/-- 10_state.md sections 5 and 11: the key matrix is read only by `Ex9E`, `ExA1` and `Fx0A`, and the sound timer by no
instruction: executing any other instruction after changing them is changing them after executing it (decision D28, log
38). The two executions it compares start with the same random source, so for `Cxnn` it takes the random byte to be equal
in both, which is the model's choice (log 10): the spec relates no draw to another (decision D22). -/
def Obligations.KeysAndSoundTimerAreReadOnlyWhereTheSpecSays : Prop :=
  ∀ (i : Instr) (s : State),
    (∀ keys : Keys, (∀ x, i ≠ .skp x ∧ i ≠ .sknp x ∧ i ≠ .ldVxK x) →
      exec i { s with keys := keys } = mapNext (fun t => { t with keys := keys }) (exec i s)) ∧
    (∀ b : Byte, (∀ x, i ≠ .ldStVx x) →
      exec i { s with ST := b } = mapNext (fun t => { t with ST := b }) (exec i s))

/-! ### The key source -/

/-- 10_state.md section 11 and 60_exceptions.md section 6 (decision D28, log 38; in a halted core D26, log 36): the key source's
turn sets the whole matrix, to any value, and changes nothing else; no other turn changes a key, since the core never
writes them. That the key source moves by a turn of its own is the model's form (log 8). -/
def Obligations.TheKeySourceSetsTheMatrixAndNothingElseDoes : Prop :=
  ∀ s : State,
    (∀ keys : Keys, s.nextTurn = .setKeys keys → step s = .next { s.afterTurn with keys := keys }) ∧
    (∀ t : State, step s = .next t → (∀ keys : Keys, s.nextTurn ≠ .setKeys keys) → t.keys = s.keys)
end

