-- ==== Sys2Proof/Laws/Decode.lean ====
section
/-!
SUPPORT. The fields of a word laid out from its parts: what the decoder reads is what the encoder placed. Fields
distribute over `|`, and each placed operand shows only in its own field.
-/

namespace Sys2Proof

theorem field_or (i n : Nat) (a b : Word) : (a ||| b).extractLsb' i n = a.extractLsb' i n ||| b.extractLsb' i n := by
  ext j hj; simp

theorem field_and (i n : Nat) (a b : Word) : (a &&& b).extractLsb' i n = a.extractLsb' i n &&& b.extractLsb' i n := by
  ext j hj; simp

/-! ### `x<<8` and `y<<4` -/

theorem op_placeX (x : Reg) : (placeX x).extractLsb' 12 4 = 0 := by revert x; decide
theorem x_placeX (x : Reg) : (placeX x).extractLsb' 8 4 = BitVec.ofFin x := by revert x; decide
theorem y_placeX (x : Reg) : (placeX x).extractLsb' 4 4 = 0 := by revert x; decide
theorem n_placeX (x : Reg) : (placeX x).extractLsb' 0 4 = 0 := by revert x; decide
theorem nn_placeX (x : Reg) : (placeX x).extractLsb' 0 8 = 0 := by revert x; decide
theorem op_placeY (y : Reg) : (placeY y).extractLsb' 12 4 = 0 := by revert y; decide
theorem x_placeY (y : Reg) : (placeY y).extractLsb' 8 4 = 0 := by revert y; decide
theorem y_placeY (y : Reg) : (placeY y).extractLsb' 4 4 = BitVec.ofFin y := by revert y; decide
theorem n_placeY (y : Reg) : (placeY y).extractLsb' 0 4 = 0 := by revert y; decide

/-! ### Immediates -/

theorem op_nn (v : Byte) : (v.setWidth 16).extractLsb' 12 4 = 0 := by ext i hi; interval_cases i <;> simp
theorem x_nn (v : Byte) : (v.setWidth 16).extractLsb' 8 4 = 0 := by ext i hi; simp
theorem nn_nn (v : Byte) : (v.setWidth 16).extractLsb' 0 8 = v := by ext i hi; interval_cases i <;> simp
theorem op_nnn (v : Imm12) : (v.setWidth 16).extractLsb' 12 4 = 0 := by ext i hi; simp
theorem nnn_nnn (v : Imm12) : (v.setWidth 16).extractLsb' 0 12 = v := by ext i hi; interval_cases i <;> simp
theorem op_n (v : BitVec 4) : (v.setWidth 16).extractLsb' 12 4 = 0 := by ext i hi; interval_cases i <;> simp
theorem x_n (v : BitVec 4) : (v.setWidth 16).extractLsb' 8 4 = 0 := by ext i hi; interval_cases i <;> simp
theorem y_n (v : BitVec 4) : (v.setWidth 16).extractLsb' 4 4 = 0 := by ext i hi; simp
theorem n_n (v : BitVec 4) : (v.setWidth 16).extractLsb' 0 4 = v := by ext i hi; interval_cases i <;> simp

/-! ### A word is laid out from its fields (30_encoding.md R81) -/

theorem placeX_xField (w : Word) : placeX (xField w) = (w.extractLsb' 8 4).setWidth 16 <<< 8 := by
  have h : ∀ v : BitVec 4, BitVec.ofNat 16 v.toFin.val <<< 8 = v.setWidth 16 <<< 8 := by decide
  exact h _

theorem placeY_yField (w : Word) : placeY (yField w) = (w.extractLsb' 4 4).setWidth 16 <<< 4 := by
  have h : ∀ v : BitVec 4, BitVec.ofNat 16 v.toFin.val <<< 4 = v.setWidth 16 <<< 4 := by decide
  exact h _

theorem word_of_op_x_y_n (w : Word) :
    w = (BitVec.setWidth 16 (opField w) <<< 12) ||| placeX (xField w) ||| placeY (yField w) |||
      (nField w).setWidth 16 := by
  rw [placeX_xField, placeY_yField, opField, nField]
  ext i hi; interval_cases i <;> simp [BitVec.getLsbD_eq_getElem]

theorem word_of_op_x_nn (w : Word) :
    w = (BitVec.setWidth 16 (opField w) <<< 12) ||| placeX (xField w) ||| (nnField w).setWidth 16 := by
  rw [placeX_xField, opField, nnField]
  ext i hi; interval_cases i <;> simp [BitVec.getLsbD_eq_getElem]

theorem word_of_op_nnn (w : Word) : w = (BitVec.setWidth 16 (opField w) <<< 12) ||| (nnnField w).setWidth 16 := by
  rw [opField, nnnField]
  ext i hi; interval_cases i <;> simp [BitVec.getLsbD_eq_getElem]

/-! ### Words and their bytes (20_memory.md R66) -/

/-- A word is rebuilt from the bytes memory holds. -/
theorem wordOfBytes_bytesOfWord (w : Word) :
    wordOfBytes (w.extractLsb' 8 8) (w.extractLsb' 0 8) = w := by
  ext i hi
  simp only [wordOfBytes, BitVec.getElem_or, BitVec.getElem_shiftLeft, BitVec.getElem_setWidth, BitVec.getLsbD_extractLsb']
  by_cases h : i < 8
  · simp [h, BitVec.getLsbD_eq_getElem hi]
  · have h1 : 8 + (i - 8) = i := by omega
    have h2 : i - 8 < 8 := by omega
    simp [h, h1, h2, BitVec.getLsbD_eq_getElem hi]

/-- The value of a big-endian word (20_memory.md R65). -/
theorem wordOfBytes_toNat (hi lo : Byte) : (wordOfBytes hi lo).toNat = hi.toNat * 256 + lo.toNat := by
  have h1 := hi.isLt
  have h2 := lo.isLt
  have h3 : hi.toNat <<< 8 % 65536 = hi.toNat <<< 8 := Nat.mod_eq_of_lt (by rw [Nat.shiftLeft_eq]; omega)
  simp only [wordOfBytes, BitVec.toNat_or, BitVec.toNat_shiftLeft, BitVec.toNat_setWidth]
  rw [Nat.mod_eq_of_lt (by omega : hi.toNat < 2 ^ 16), Nat.mod_eq_of_lt (by omega : lo.toNat < 2 ^ 16), h3,
    ← Nat.shiftLeft_add_eq_or_of_lt h2, Nat.shiftLeft_eq]

/-- Decoding the bytes of a word is decoding the word. -/
theorem decode_bytesOfWord (w : Word) (rest : List Byte) :
    decode (bytesOfWord w ++ rest) =
      match decodeWord w with | .instr i => .instr i rest | .unsupported why => .unsupported why := by
  cases h : decodeWord w <;> simp [bytesOfWord, decode, wordOfBytes_bytesOfWord, h]

end Sys2Proof
end

