-- ==== Sys2Proof/Laws/State.lean ====
section
/-!
SUPPORT. One lemma per field per update of State, true by `rfl`; and reading a register or a byte through an update that
does not touch it.
-/

namespace Sys2Proof.Machine

variable (s : State)

/-! ### `writeByte` -/

@[simp] theorem State.writeByte_mem (a : Nat) (b : Byte) : (s.writeByte a b).mem = Memory.write s.params.font s.mem a b := rfl
@[simp] theorem State.writeByte_V (a : Nat) (b : Byte) : (s.writeByte a b).V = s.V := rfl
@[simp] theorem State.writeByte_I (a : Nat) (b : Byte) : (s.writeByte a b).I = s.I := rfl
@[simp] theorem State.writeByte_pc (a : Nat) (b : Byte) : (s.writeByte a b).pc = s.pc := rfl
@[simp] theorem State.writeByte_stack (a : Nat) (b : Byte) : (s.writeByte a b).stack = s.stack := rfl
@[simp] theorem State.writeByte_sp (a : Nat) (b : Byte) : (s.writeByte a b).sp = s.sp := rfl
@[simp] theorem State.writeByte_DT (a : Nat) (b : Byte) : (s.writeByte a b).DT = s.DT := rfl
@[simp] theorem State.writeByte_ST (a : Nat) (b : Byte) : (s.writeByte a b).ST = s.ST := rfl
@[simp] theorem State.writeByte_FB (a : Nat) (b : Byte) : (s.writeByte a b).FB = s.FB := rfl
@[simp] theorem State.writeByte_run (a : Nat) (b : Byte) : (s.writeByte a b).run = s.run := rfl
@[simp] theorem State.writeByte_stop (a : Nat) (b : Byte) : (s.writeByte a b).stop = s.stop := rfl
@[simp] theorem State.writeByte_sound (a : Nat) (b : Byte) : (s.writeByte a b).sound = s.sound := rfl
@[simp] theorem State.writeByte_keys (a : Nat) (b : Byte) : (s.writeByte a b).keys = s.keys := rfl
@[simp] theorem State.writeByte_frames (a : Nat) (b : Byte) : (s.writeByte a b).frames = s.frames := rfl
@[simp] theorem State.writeByte_rand (a : Nat) (b : Byte) : (s.writeByte a b).rand = s.rand := rfl
@[simp] theorem State.writeByte_draws (a : Nat) (b : Byte) : (s.writeByte a b).draws = s.draws := rfl
@[simp] theorem State.writeByte_turns (a : Nat) (b : Byte) : (s.writeByte a b).turns = s.turns := rfl
@[simp] theorem State.writeByte_params (a : Nat) (b : Byte) : (s.writeByte a b).params = s.params := rfl
@[simp] theorem State.writeByte_getV (a : Nat) (b : Byte) (q : Reg) : (s.writeByte a b).getV q = s.getV q := rfl

/-! ### `setV` -/

@[simp] theorem State.setV_mem (r : Reg) (b : Byte) : (s.setV r b).mem = s.mem := rfl
@[simp] theorem State.setV_V (r : Reg) (b : Byte) : (s.setV r b).V = s.V.set r.val b := rfl
@[simp] theorem State.setV_I (r : Reg) (b : Byte) : (s.setV r b).I = s.I := rfl
@[simp] theorem State.setV_pc (r : Reg) (b : Byte) : (s.setV r b).pc = s.pc := rfl
@[simp] theorem State.setV_stack (r : Reg) (b : Byte) : (s.setV r b).stack = s.stack := rfl
@[simp] theorem State.setV_sp (r : Reg) (b : Byte) : (s.setV r b).sp = s.sp := rfl
@[simp] theorem State.setV_DT (r : Reg) (b : Byte) : (s.setV r b).DT = s.DT := rfl
@[simp] theorem State.setV_ST (r : Reg) (b : Byte) : (s.setV r b).ST = s.ST := rfl
@[simp] theorem State.setV_FB (r : Reg) (b : Byte) : (s.setV r b).FB = s.FB := rfl
@[simp] theorem State.setV_run (r : Reg) (b : Byte) : (s.setV r b).run = s.run := rfl
@[simp] theorem State.setV_stop (r : Reg) (b : Byte) : (s.setV r b).stop = s.stop := rfl
@[simp] theorem State.setV_sound (r : Reg) (b : Byte) : (s.setV r b).sound = s.sound := rfl
@[simp] theorem State.setV_keys (r : Reg) (b : Byte) : (s.setV r b).keys = s.keys := rfl
@[simp] theorem State.setV_frames (r : Reg) (b : Byte) : (s.setV r b).frames = s.frames := rfl
@[simp] theorem State.setV_rand (r : Reg) (b : Byte) : (s.setV r b).rand = s.rand := rfl
@[simp] theorem State.setV_draws (r : Reg) (b : Byte) : (s.setV r b).draws = s.draws := rfl
@[simp] theorem State.setV_turns (r : Reg) (b : Byte) : (s.setV r b).turns = s.turns := rfl
@[simp] theorem State.setV_params (r : Reg) (b : Byte) : (s.setV r b).params = s.params := rfl
@[simp] theorem State.setV_readByte (r : Reg) (b : Byte) (q : Nat) : (s.setV r b).readByte q = s.readByte q := rfl

/-! ### `setI` -/

@[simp] theorem State.setI_mem (a : Word) : (s.setI a).mem = s.mem := rfl
@[simp] theorem State.setI_V (a : Word) : (s.setI a).V = s.V := rfl
@[simp] theorem State.setI_I (a : Word) : (s.setI a).I = a := rfl
@[simp] theorem State.setI_pc (a : Word) : (s.setI a).pc = s.pc := rfl
@[simp] theorem State.setI_stack (a : Word) : (s.setI a).stack = s.stack := rfl
@[simp] theorem State.setI_sp (a : Word) : (s.setI a).sp = s.sp := rfl
@[simp] theorem State.setI_DT (a : Word) : (s.setI a).DT = s.DT := rfl
@[simp] theorem State.setI_ST (a : Word) : (s.setI a).ST = s.ST := rfl
@[simp] theorem State.setI_FB (a : Word) : (s.setI a).FB = s.FB := rfl
@[simp] theorem State.setI_run (a : Word) : (s.setI a).run = s.run := rfl
@[simp] theorem State.setI_stop (a : Word) : (s.setI a).stop = s.stop := rfl
@[simp] theorem State.setI_sound (a : Word) : (s.setI a).sound = s.sound := rfl
@[simp] theorem State.setI_keys (a : Word) : (s.setI a).keys = s.keys := rfl
@[simp] theorem State.setI_frames (a : Word) : (s.setI a).frames = s.frames := rfl
@[simp] theorem State.setI_rand (a : Word) : (s.setI a).rand = s.rand := rfl
@[simp] theorem State.setI_draws (a : Word) : (s.setI a).draws = s.draws := rfl
@[simp] theorem State.setI_turns (a : Word) : (s.setI a).turns = s.turns := rfl
@[simp] theorem State.setI_params (a : Word) : (s.setI a).params = s.params := rfl
@[simp] theorem State.setI_getV (a : Word) (q : Reg) : (s.setI a).getV q = s.getV q := rfl
@[simp] theorem State.setI_readByte (a : Word) (q : Nat) : (s.setI a).readByte q = s.readByte q := rfl

/-! ### `setDT` -/

@[simp] theorem State.setDT_mem (b : Byte) : (s.setDT b).mem = s.mem := rfl
@[simp] theorem State.setDT_V (b : Byte) : (s.setDT b).V = s.V := rfl
@[simp] theorem State.setDT_I (b : Byte) : (s.setDT b).I = s.I := rfl
@[simp] theorem State.setDT_pc (b : Byte) : (s.setDT b).pc = s.pc := rfl
@[simp] theorem State.setDT_stack (b : Byte) : (s.setDT b).stack = s.stack := rfl
@[simp] theorem State.setDT_sp (b : Byte) : (s.setDT b).sp = s.sp := rfl
@[simp] theorem State.setDT_DT (b : Byte) : (s.setDT b).DT = b := rfl
@[simp] theorem State.setDT_ST (b : Byte) : (s.setDT b).ST = s.ST := rfl
@[simp] theorem State.setDT_FB (b : Byte) : (s.setDT b).FB = s.FB := rfl
@[simp] theorem State.setDT_run (b : Byte) : (s.setDT b).run = s.run := rfl
@[simp] theorem State.setDT_stop (b : Byte) : (s.setDT b).stop = s.stop := rfl
@[simp] theorem State.setDT_sound (b : Byte) : (s.setDT b).sound = s.sound := rfl
@[simp] theorem State.setDT_keys (b : Byte) : (s.setDT b).keys = s.keys := rfl
@[simp] theorem State.setDT_frames (b : Byte) : (s.setDT b).frames = s.frames := rfl
@[simp] theorem State.setDT_rand (b : Byte) : (s.setDT b).rand = s.rand := rfl
@[simp] theorem State.setDT_draws (b : Byte) : (s.setDT b).draws = s.draws := rfl
@[simp] theorem State.setDT_turns (b : Byte) : (s.setDT b).turns = s.turns := rfl
@[simp] theorem State.setDT_params (b : Byte) : (s.setDT b).params = s.params := rfl
@[simp] theorem State.setDT_getV (b : Byte) (q : Reg) : (s.setDT b).getV q = s.getV q := rfl
@[simp] theorem State.setDT_readByte (b : Byte) (q : Nat) : (s.setDT b).readByte q = s.readByte q := rfl

/-! ### `setST` -/

@[simp] theorem State.setST_mem (b : Byte) : (s.setST b).mem = s.mem := rfl
@[simp] theorem State.setST_V (b : Byte) : (s.setST b).V = s.V := rfl
@[simp] theorem State.setST_I (b : Byte) : (s.setST b).I = s.I := rfl
@[simp] theorem State.setST_pc (b : Byte) : (s.setST b).pc = s.pc := rfl
@[simp] theorem State.setST_stack (b : Byte) : (s.setST b).stack = s.stack := rfl
@[simp] theorem State.setST_sp (b : Byte) : (s.setST b).sp = s.sp := rfl
@[simp] theorem State.setST_DT (b : Byte) : (s.setST b).DT = s.DT := rfl
@[simp] theorem State.setST_ST (b : Byte) : (s.setST b).ST = b := rfl
@[simp] theorem State.setST_FB (b : Byte) : (s.setST b).FB = s.FB := rfl
@[simp] theorem State.setST_run (b : Byte) : (s.setST b).run = s.run := rfl
@[simp] theorem State.setST_stop (b : Byte) : (s.setST b).stop = s.stop := rfl
@[simp] theorem State.setST_sound (b : Byte) : (s.setST b).sound = s.sound := rfl
@[simp] theorem State.setST_keys (b : Byte) : (s.setST b).keys = s.keys := rfl
@[simp] theorem State.setST_frames (b : Byte) : (s.setST b).frames = s.frames := rfl
@[simp] theorem State.setST_rand (b : Byte) : (s.setST b).rand = s.rand := rfl
@[simp] theorem State.setST_draws (b : Byte) : (s.setST b).draws = s.draws := rfl
@[simp] theorem State.setST_turns (b : Byte) : (s.setST b).turns = s.turns := rfl
@[simp] theorem State.setST_params (b : Byte) : (s.setST b).params = s.params := rfl
@[simp] theorem State.setST_getV (b : Byte) (q : Reg) : (s.setST b).getV q = s.getV q := rfl
@[simp] theorem State.setST_readByte (b : Byte) (q : Nat) : (s.setST b).readByte q = s.readByte q := rfl

/-! ### `setPc` -/

@[simp] theorem State.setPc_mem (a : Word) : (s.setPc a).mem = s.mem := rfl
@[simp] theorem State.setPc_V (a : Word) : (s.setPc a).V = s.V := rfl
@[simp] theorem State.setPc_I (a : Word) : (s.setPc a).I = s.I := rfl
@[simp] theorem State.setPc_pc (a : Word) : (s.setPc a).pc = a := rfl
@[simp] theorem State.setPc_stack (a : Word) : (s.setPc a).stack = s.stack := rfl
@[simp] theorem State.setPc_sp (a : Word) : (s.setPc a).sp = s.sp := rfl
@[simp] theorem State.setPc_DT (a : Word) : (s.setPc a).DT = s.DT := rfl
@[simp] theorem State.setPc_ST (a : Word) : (s.setPc a).ST = s.ST := rfl
@[simp] theorem State.setPc_FB (a : Word) : (s.setPc a).FB = s.FB := rfl
@[simp] theorem State.setPc_run (a : Word) : (s.setPc a).run = s.run := rfl
@[simp] theorem State.setPc_stop (a : Word) : (s.setPc a).stop = s.stop := rfl
@[simp] theorem State.setPc_sound (a : Word) : (s.setPc a).sound = s.sound := rfl
@[simp] theorem State.setPc_keys (a : Word) : (s.setPc a).keys = s.keys := rfl
@[simp] theorem State.setPc_frames (a : Word) : (s.setPc a).frames = s.frames := rfl
@[simp] theorem State.setPc_rand (a : Word) : (s.setPc a).rand = s.rand := rfl
@[simp] theorem State.setPc_draws (a : Word) : (s.setPc a).draws = s.draws := rfl
@[simp] theorem State.setPc_turns (a : Word) : (s.setPc a).turns = s.turns := rfl
@[simp] theorem State.setPc_params (a : Word) : (s.setPc a).params = s.params := rfl
@[simp] theorem State.setPc_getV (a : Word) (q : Reg) : (s.setPc a).getV q = s.getV q := rfl
@[simp] theorem State.setPc_readByte (a : Word) (q : Nat) : (s.setPc a).readByte q = s.readByte q := rfl

/-! ### `advance` -/

@[simp] theorem State.advance_mem : (s.advance).mem = s.mem := rfl
@[simp] theorem State.advance_V : (s.advance).V = s.V := rfl
@[simp] theorem State.advance_I : (s.advance).I = s.I := rfl
@[simp] theorem State.advance_pc : (s.advance).pc = s.pc + 2 := rfl
@[simp] theorem State.advance_stack : (s.advance).stack = s.stack := rfl
@[simp] theorem State.advance_sp : (s.advance).sp = s.sp := rfl
@[simp] theorem State.advance_DT : (s.advance).DT = s.DT := rfl
@[simp] theorem State.advance_ST : (s.advance).ST = s.ST := rfl
@[simp] theorem State.advance_FB : (s.advance).FB = s.FB := rfl
@[simp] theorem State.advance_run : (s.advance).run = s.run := rfl
@[simp] theorem State.advance_stop : (s.advance).stop = s.stop := rfl
@[simp] theorem State.advance_sound : (s.advance).sound = s.sound := rfl
@[simp] theorem State.advance_keys : (s.advance).keys = s.keys := rfl
@[simp] theorem State.advance_frames : (s.advance).frames = s.frames := rfl
@[simp] theorem State.advance_rand : (s.advance).rand = s.rand := rfl
@[simp] theorem State.advance_draws : (s.advance).draws = s.draws := rfl
@[simp] theorem State.advance_turns : (s.advance).turns = s.turns := rfl
@[simp] theorem State.advance_params : (s.advance).params = s.params := rfl
@[simp] theorem State.advance_getV (q : Reg) : (s.advance).getV q = s.getV q := rfl
@[simp] theorem State.advance_readByte (q : Nat) : (s.advance).readByte q = s.readByte q := rfl

/-! ### `skipIf` -/

@[simp] theorem State.skipIf_mem (c : Bool) : (s.skipIf c).mem = s.mem := rfl
@[simp] theorem State.skipIf_V (c : Bool) : (s.skipIf c).V = s.V := rfl
@[simp] theorem State.skipIf_I (c : Bool) : (s.skipIf c).I = s.I := rfl
@[simp] theorem State.skipIf_pc (c : Bool) : (s.skipIf c).pc = if c then s.pc + 4 else s.pc + 2 := rfl
@[simp] theorem State.skipIf_stack (c : Bool) : (s.skipIf c).stack = s.stack := rfl
@[simp] theorem State.skipIf_sp (c : Bool) : (s.skipIf c).sp = s.sp := rfl
@[simp] theorem State.skipIf_DT (c : Bool) : (s.skipIf c).DT = s.DT := rfl
@[simp] theorem State.skipIf_ST (c : Bool) : (s.skipIf c).ST = s.ST := rfl
@[simp] theorem State.skipIf_FB (c : Bool) : (s.skipIf c).FB = s.FB := rfl
@[simp] theorem State.skipIf_run (c : Bool) : (s.skipIf c).run = s.run := rfl
@[simp] theorem State.skipIf_stop (c : Bool) : (s.skipIf c).stop = s.stop := rfl
@[simp] theorem State.skipIf_sound (c : Bool) : (s.skipIf c).sound = s.sound := rfl
@[simp] theorem State.skipIf_keys (c : Bool) : (s.skipIf c).keys = s.keys := rfl
@[simp] theorem State.skipIf_frames (c : Bool) : (s.skipIf c).frames = s.frames := rfl
@[simp] theorem State.skipIf_rand (c : Bool) : (s.skipIf c).rand = s.rand := rfl
@[simp] theorem State.skipIf_draws (c : Bool) : (s.skipIf c).draws = s.draws := rfl
@[simp] theorem State.skipIf_turns (c : Bool) : (s.skipIf c).turns = s.turns := rfl
@[simp] theorem State.skipIf_params (c : Bool) : (s.skipIf c).params = s.params := rfl
@[simp] theorem State.skipIf_getV (c : Bool) (q : Reg) : (s.skipIf c).getV q = s.getV q := rfl
@[simp] theorem State.skipIf_readByte (c : Bool) (q : Nat) : (s.skipIf c).readByte q = s.readByte q := rfl

/-! ### `raiseFault` -/

@[simp] theorem State.raiseFault_mem (kind : FaultKind) (w : Option Word) : (s.raiseFault kind w).mem = s.mem := rfl
@[simp] theorem State.raiseFault_V (kind : FaultKind) (w : Option Word) : (s.raiseFault kind w).V = s.V := rfl
@[simp] theorem State.raiseFault_I (kind : FaultKind) (w : Option Word) : (s.raiseFault kind w).I = s.I := rfl
@[simp] theorem State.raiseFault_pc (kind : FaultKind) (w : Option Word) : (s.raiseFault kind w).pc = s.pc := rfl
@[simp] theorem State.raiseFault_stack (kind : FaultKind) (w : Option Word) : (s.raiseFault kind w).stack = s.stack := rfl
@[simp] theorem State.raiseFault_sp (kind : FaultKind) (w : Option Word) : (s.raiseFault kind w).sp = s.sp := rfl
@[simp] theorem State.raiseFault_DT (kind : FaultKind) (w : Option Word) : (s.raiseFault kind w).DT = s.DT := rfl
@[simp] theorem State.raiseFault_ST (kind : FaultKind) (w : Option Word) : (s.raiseFault kind w).ST = s.ST := rfl
@[simp] theorem State.raiseFault_FB (kind : FaultKind) (w : Option Word) : (s.raiseFault kind w).FB = s.FB := rfl
@[simp] theorem State.raiseFault_run (kind : FaultKind) (w : Option Word) : (s.raiseFault kind w).run = .halted (.fault kind s.pc w) := rfl
@[simp] theorem State.raiseFault_stop (kind : FaultKind) (w : Option Word) : (s.raiseFault kind w).stop = true := rfl
@[simp] theorem State.raiseFault_sound (kind : FaultKind) (w : Option Word) : (s.raiseFault kind w).sound = false := rfl
@[simp] theorem State.raiseFault_keys (kind : FaultKind) (w : Option Word) : (s.raiseFault kind w).keys = s.keys := rfl
@[simp] theorem State.raiseFault_frames (kind : FaultKind) (w : Option Word) : (s.raiseFault kind w).frames = s.frames := rfl
@[simp] theorem State.raiseFault_rand (kind : FaultKind) (w : Option Word) : (s.raiseFault kind w).rand = s.rand := rfl
@[simp] theorem State.raiseFault_draws (kind : FaultKind) (w : Option Word) : (s.raiseFault kind w).draws = s.draws := rfl
@[simp] theorem State.raiseFault_turns (kind : FaultKind) (w : Option Word) : (s.raiseFault kind w).turns = s.turns := rfl
@[simp] theorem State.raiseFault_params (kind : FaultKind) (w : Option Word) : (s.raiseFault kind w).params = s.params := rfl
@[simp] theorem State.raiseFault_getV (kind : FaultKind) (w : Option Word) (q : Reg) : (s.raiseFault kind w).getV q = s.getV q := rfl
@[simp] theorem State.raiseFault_readByte (kind : FaultKind) (w : Option Word) (q : Nat) : (s.raiseFault kind w).readByte q = s.readByte q := rfl

/-! ### `haltStopped` -/

@[simp] theorem State.haltStopped_mem : (s.haltStopped).mem = s.mem := rfl
@[simp] theorem State.haltStopped_V : (s.haltStopped).V = s.V := rfl
@[simp] theorem State.haltStopped_I : (s.haltStopped).I = s.I := rfl
@[simp] theorem State.haltStopped_pc : (s.haltStopped).pc = s.pc := rfl
@[simp] theorem State.haltStopped_stack : (s.haltStopped).stack = s.stack := rfl
@[simp] theorem State.haltStopped_sp : (s.haltStopped).sp = s.sp := rfl
@[simp] theorem State.haltStopped_DT : (s.haltStopped).DT = s.DT := rfl
@[simp] theorem State.haltStopped_ST : (s.haltStopped).ST = s.ST := rfl
@[simp] theorem State.haltStopped_FB : (s.haltStopped).FB = s.FB := rfl
@[simp] theorem State.haltStopped_run : (s.haltStopped).run = .halted .stopped := rfl
@[simp] theorem State.haltStopped_stop : (s.haltStopped).stop = s.stop := rfl
@[simp] theorem State.haltStopped_sound : (s.haltStopped).sound = s.sound := rfl
@[simp] theorem State.haltStopped_keys : (s.haltStopped).keys = s.keys := rfl
@[simp] theorem State.haltStopped_frames : (s.haltStopped).frames = s.frames := rfl
@[simp] theorem State.haltStopped_rand : (s.haltStopped).rand = s.rand := rfl
@[simp] theorem State.haltStopped_draws : (s.haltStopped).draws = s.draws := rfl
@[simp] theorem State.haltStopped_turns : (s.haltStopped).turns = s.turns := rfl
@[simp] theorem State.haltStopped_params : (s.haltStopped).params = s.params := rfl
@[simp] theorem State.haltStopped_getV (q : Reg) : (s.haltStopped).getV q = s.getV q := rfl
@[simp] theorem State.haltStopped_readByte (q : Nat) : (s.haltStopped).readByte q = s.readByte q := rfl

/-! ### `showFrame` -/

@[simp] theorem State.showFrame_mem (fb : FrameBuffer) : (s.showFrame fb).mem = s.mem := rfl
@[simp] theorem State.showFrame_V (fb : FrameBuffer) : (s.showFrame fb).V = s.V := rfl
@[simp] theorem State.showFrame_I (fb : FrameBuffer) : (s.showFrame fb).I = s.I := rfl
@[simp] theorem State.showFrame_pc (fb : FrameBuffer) : (s.showFrame fb).pc = s.pc := rfl
@[simp] theorem State.showFrame_stack (fb : FrameBuffer) : (s.showFrame fb).stack = s.stack := rfl
@[simp] theorem State.showFrame_sp (fb : FrameBuffer) : (s.showFrame fb).sp = s.sp := rfl
@[simp] theorem State.showFrame_DT (fb : FrameBuffer) : (s.showFrame fb).DT = s.DT := rfl
@[simp] theorem State.showFrame_ST (fb : FrameBuffer) : (s.showFrame fb).ST = s.ST := rfl
@[simp] theorem State.showFrame_FB (fb : FrameBuffer) : (s.showFrame fb).FB = fb := rfl
@[simp] theorem State.showFrame_run (fb : FrameBuffer) : (s.showFrame fb).run = s.run := rfl
@[simp] theorem State.showFrame_stop (fb : FrameBuffer) : (s.showFrame fb).stop = s.stop := rfl
@[simp] theorem State.showFrame_sound (fb : FrameBuffer) : (s.showFrame fb).sound = s.sound := rfl
@[simp] theorem State.showFrame_keys (fb : FrameBuffer) : (s.showFrame fb).keys = s.keys := rfl
@[simp] theorem State.showFrame_frames (fb : FrameBuffer) : (s.showFrame fb).frames = fb :: s.frames := rfl
@[simp] theorem State.showFrame_rand (fb : FrameBuffer) : (s.showFrame fb).rand = s.rand := rfl
@[simp] theorem State.showFrame_draws (fb : FrameBuffer) : (s.showFrame fb).draws = s.draws := rfl
@[simp] theorem State.showFrame_turns (fb : FrameBuffer) : (s.showFrame fb).turns = s.turns := rfl
@[simp] theorem State.showFrame_params (fb : FrameBuffer) : (s.showFrame fb).params = s.params := rfl
@[simp] theorem State.showFrame_getV (fb : FrameBuffer) (q : Reg) : (s.showFrame fb).getV q = s.getV q := rfl
@[simp] theorem State.showFrame_readByte (fb : FrameBuffer) (q : Nat) : (s.showFrame fb).readByte q = s.readByte q := rfl

/-! ### `afterDraw` -/

@[simp] theorem State.afterDraw_mem : (s.afterDraw).mem = s.mem := rfl
@[simp] theorem State.afterDraw_V : (s.afterDraw).V = s.V := rfl
@[simp] theorem State.afterDraw_I : (s.afterDraw).I = s.I := rfl
@[simp] theorem State.afterDraw_pc : (s.afterDraw).pc = s.pc := rfl
@[simp] theorem State.afterDraw_stack : (s.afterDraw).stack = s.stack := rfl
@[simp] theorem State.afterDraw_sp : (s.afterDraw).sp = s.sp := rfl
@[simp] theorem State.afterDraw_DT : (s.afterDraw).DT = s.DT := rfl
@[simp] theorem State.afterDraw_ST : (s.afterDraw).ST = s.ST := rfl
@[simp] theorem State.afterDraw_FB : (s.afterDraw).FB = s.FB := rfl
@[simp] theorem State.afterDraw_run : (s.afterDraw).run = s.run := rfl
@[simp] theorem State.afterDraw_stop : (s.afterDraw).stop = s.stop := rfl
@[simp] theorem State.afterDraw_sound : (s.afterDraw).sound = s.sound := rfl
@[simp] theorem State.afterDraw_keys : (s.afterDraw).keys = s.keys := rfl
@[simp] theorem State.afterDraw_frames : (s.afterDraw).frames = s.frames := rfl
@[simp] theorem State.afterDraw_rand : (s.afterDraw).rand = s.rand.tail := rfl
@[simp] theorem State.afterDraw_draws : (s.afterDraw).draws = s.draws + 1 := rfl
@[simp] theorem State.afterDraw_turns : (s.afterDraw).turns = s.turns := rfl
@[simp] theorem State.afterDraw_params : (s.afterDraw).params = s.params := rfl
@[simp] theorem State.afterDraw_getV (q : Reg) : (s.afterDraw).getV q = s.getV q := rfl
@[simp] theorem State.afterDraw_readByte (q : Nat) : (s.afterDraw).readByte q = s.readByte q := rfl

/-! ### `setKeys` -/

@[simp] theorem State.setKeys_mem (keys : Keys) : (s.setKeys keys).mem = s.mem := rfl
@[simp] theorem State.setKeys_V (keys : Keys) : (s.setKeys keys).V = s.V := rfl
@[simp] theorem State.setKeys_I (keys : Keys) : (s.setKeys keys).I = s.I := rfl
@[simp] theorem State.setKeys_pc (keys : Keys) : (s.setKeys keys).pc = s.pc := rfl
@[simp] theorem State.setKeys_stack (keys : Keys) : (s.setKeys keys).stack = s.stack := rfl
@[simp] theorem State.setKeys_sp (keys : Keys) : (s.setKeys keys).sp = s.sp := rfl
@[simp] theorem State.setKeys_DT (keys : Keys) : (s.setKeys keys).DT = s.DT := rfl
@[simp] theorem State.setKeys_ST (keys : Keys) : (s.setKeys keys).ST = s.ST := rfl
@[simp] theorem State.setKeys_FB (keys : Keys) : (s.setKeys keys).FB = s.FB := rfl
@[simp] theorem State.setKeys_run (keys : Keys) : (s.setKeys keys).run = s.run := rfl
@[simp] theorem State.setKeys_stop (keys : Keys) : (s.setKeys keys).stop = s.stop := rfl
@[simp] theorem State.setKeys_sound (keys : Keys) : (s.setKeys keys).sound = s.sound := rfl
@[simp] theorem State.setKeys_keys (keys : Keys) : (s.setKeys keys).keys = keys := rfl
@[simp] theorem State.setKeys_frames (keys : Keys) : (s.setKeys keys).frames = s.frames := rfl
@[simp] theorem State.setKeys_rand (keys : Keys) : (s.setKeys keys).rand = s.rand := rfl
@[simp] theorem State.setKeys_draws (keys : Keys) : (s.setKeys keys).draws = s.draws := rfl
@[simp] theorem State.setKeys_turns (keys : Keys) : (s.setKeys keys).turns = s.turns := rfl
@[simp] theorem State.setKeys_params (keys : Keys) : (s.setKeys keys).params = s.params := rfl
@[simp] theorem State.setKeys_getV (keys : Keys) (q : Reg) : (s.setKeys keys).getV q = s.getV q := rfl
@[simp] theorem State.setKeys_readByte (keys : Keys) (q : Nat) : (s.setKeys keys).readByte q = s.readByte q := rfl

/-! ### `requestStop` -/

@[simp] theorem State.requestStop_mem : (s.requestStop).mem = s.mem := rfl
@[simp] theorem State.requestStop_V : (s.requestStop).V = s.V := rfl
@[simp] theorem State.requestStop_I : (s.requestStop).I = s.I := rfl
@[simp] theorem State.requestStop_pc : (s.requestStop).pc = s.pc := rfl
@[simp] theorem State.requestStop_stack : (s.requestStop).stack = s.stack := rfl
@[simp] theorem State.requestStop_sp : (s.requestStop).sp = s.sp := rfl
@[simp] theorem State.requestStop_DT : (s.requestStop).DT = s.DT := rfl
@[simp] theorem State.requestStop_ST : (s.requestStop).ST = s.ST := rfl
@[simp] theorem State.requestStop_FB : (s.requestStop).FB = s.FB := rfl
@[simp] theorem State.requestStop_run : (s.requestStop).run = s.run := rfl
@[simp] theorem State.requestStop_stop : (s.requestStop).stop = true := rfl
@[simp] theorem State.requestStop_sound : (s.requestStop).sound = false := rfl
@[simp] theorem State.requestStop_keys : (s.requestStop).keys = s.keys := rfl
@[simp] theorem State.requestStop_frames : (s.requestStop).frames = s.frames := rfl
@[simp] theorem State.requestStop_rand : (s.requestStop).rand = s.rand := rfl
@[simp] theorem State.requestStop_draws : (s.requestStop).draws = s.draws := rfl
@[simp] theorem State.requestStop_turns : (s.requestStop).turns = s.turns := rfl
@[simp] theorem State.requestStop_params : (s.requestStop).params = s.params := rfl
@[simp] theorem State.requestStop_getV (q : Reg) : (s.requestStop).getV q = s.getV q := rfl
@[simp] theorem State.requestStop_readByte (q : Nat) : (s.requestStop).readByte q = s.readByte q := rfl

/-! ### `setFlagThen` -/

@[simp] theorem State.setFlagThen_mem (flag : Byte) (x : Reg) (res : Byte) : (s.setFlagThen flag x res).mem = s.mem := rfl
@[simp] theorem State.setFlagThen_V (flag : Byte) (x : Reg) (res : Byte) : (s.setFlagThen flag x res).V = (s.V.set (VF : Reg).val flag).set x.val res := rfl
@[simp] theorem State.setFlagThen_I (flag : Byte) (x : Reg) (res : Byte) : (s.setFlagThen flag x res).I = s.I := rfl
@[simp] theorem State.setFlagThen_pc (flag : Byte) (x : Reg) (res : Byte) : (s.setFlagThen flag x res).pc = s.pc := rfl
@[simp] theorem State.setFlagThen_stack (flag : Byte) (x : Reg) (res : Byte) : (s.setFlagThen flag x res).stack = s.stack := rfl
@[simp] theorem State.setFlagThen_sp (flag : Byte) (x : Reg) (res : Byte) : (s.setFlagThen flag x res).sp = s.sp := rfl
@[simp] theorem State.setFlagThen_DT (flag : Byte) (x : Reg) (res : Byte) : (s.setFlagThen flag x res).DT = s.DT := rfl
@[simp] theorem State.setFlagThen_ST (flag : Byte) (x : Reg) (res : Byte) : (s.setFlagThen flag x res).ST = s.ST := rfl
@[simp] theorem State.setFlagThen_FB (flag : Byte) (x : Reg) (res : Byte) : (s.setFlagThen flag x res).FB = s.FB := rfl
@[simp] theorem State.setFlagThen_run (flag : Byte) (x : Reg) (res : Byte) : (s.setFlagThen flag x res).run = s.run := rfl
@[simp] theorem State.setFlagThen_stop (flag : Byte) (x : Reg) (res : Byte) : (s.setFlagThen flag x res).stop = s.stop := rfl
@[simp] theorem State.setFlagThen_sound (flag : Byte) (x : Reg) (res : Byte) : (s.setFlagThen flag x res).sound = s.sound := rfl
@[simp] theorem State.setFlagThen_keys (flag : Byte) (x : Reg) (res : Byte) : (s.setFlagThen flag x res).keys = s.keys := rfl
@[simp] theorem State.setFlagThen_frames (flag : Byte) (x : Reg) (res : Byte) : (s.setFlagThen flag x res).frames = s.frames := rfl
@[simp] theorem State.setFlagThen_rand (flag : Byte) (x : Reg) (res : Byte) : (s.setFlagThen flag x res).rand = s.rand := rfl
@[simp] theorem State.setFlagThen_draws (flag : Byte) (x : Reg) (res : Byte) : (s.setFlagThen flag x res).draws = s.draws := rfl
@[simp] theorem State.setFlagThen_turns (flag : Byte) (x : Reg) (res : Byte) : (s.setFlagThen flag x res).turns = s.turns := rfl
@[simp] theorem State.setFlagThen_params (flag : Byte) (x : Reg) (res : Byte) : (s.setFlagThen flag x res).params = s.params := rfl
@[simp] theorem State.setFlagThen_readByte (flag : Byte) (x : Reg) (res : Byte) (q : Nat) : (s.setFlagThen flag x res).readByte q = s.readByte q := rfl

/-! ### `afterTurn` -/

@[simp] theorem State.afterTurn_mem : (s.afterTurn).mem = s.mem := rfl
@[simp] theorem State.afterTurn_V : (s.afterTurn).V = s.V := rfl
@[simp] theorem State.afterTurn_I : (s.afterTurn).I = s.I := rfl
@[simp] theorem State.afterTurn_pc : (s.afterTurn).pc = s.pc := rfl
@[simp] theorem State.afterTurn_stack : (s.afterTurn).stack = s.stack := rfl
@[simp] theorem State.afterTurn_sp : (s.afterTurn).sp = s.sp := rfl
@[simp] theorem State.afterTurn_DT : (s.afterTurn).DT = s.DT := rfl
@[simp] theorem State.afterTurn_ST : (s.afterTurn).ST = s.ST := rfl
@[simp] theorem State.afterTurn_FB : (s.afterTurn).FB = s.FB := rfl
@[simp] theorem State.afterTurn_run : (s.afterTurn).run = s.run := rfl
@[simp] theorem State.afterTurn_stop : (s.afterTurn).stop = s.stop := rfl
@[simp] theorem State.afterTurn_sound : (s.afterTurn).sound = s.sound := rfl
@[simp] theorem State.afterTurn_keys : (s.afterTurn).keys = s.keys := rfl
@[simp] theorem State.afterTurn_frames : (s.afterTurn).frames = s.frames := rfl
@[simp] theorem State.afterTurn_rand : (s.afterTurn).rand = s.rand := rfl
@[simp] theorem State.afterTurn_draws : (s.afterTurn).draws = s.draws := rfl
@[simp] theorem State.afterTurn_turns : (s.afterTurn).turns = s.turns.tail := rfl
@[simp] theorem State.afterTurn_params : (s.afterTurn).params = s.params := rfl
@[simp] theorem State.afterTurn_getV (q : Reg) : (s.afterTurn).getV q = s.getV q := rfl
@[simp] theorem State.afterTurn_readByte (q : Nat) : (s.afterTurn).readByte q = s.readByte q := rfl

end Sys2Proof.Machine
end

