-- ==== Sys2Proof/Laws/Memory.lean ====
section
/-!
SUPPORT. Memory: a read after a write, and that every write keeps the canonical form.
-/

namespace Sys2Proof.Machine

variable (font : Vector Byte 80)

theorem Memory.read_put (m : Memory) (a : Nat) (b : Byte) (q : Nat) :
    Memory.read font (Memory.put m a b) q = if q = a then b else Memory.read font m q := by
  induction m with
  | nil => simp only [Memory.put, Memory.read, eq_comm]
  | cons c rest ih =>
    obtain ⟨k, v⟩ := c
    simp only [Memory.put]
    split
    · simp only [Memory.read, ih]; split <;> [rw [if_neg (by omega)]; rfl]
    · split
      · subst k; simp only [Memory.read, eq_comm]; split <;> rfl
      · simp only [Memory.read, eq_comm]

theorem Memory.read_erase (m : Memory) (a q : Nat) :
    Memory.read font (Memory.erase m a) q = if q = a then Memory.unlisted font a else Memory.read font m q := by
  induction m with
  | nil => simp only [Memory.erase, List.filter_nil, Memory.read]; split <;> simp_all
  | cons c rest ih =>
    obtain ⟨k, v⟩ := c
    simp only [Memory.erase] at ih
    by_cases h : k = a
    · subst h
      simp only [Memory.erase, List.filter_cons, bne_self_eq_false, Bool.false_eq_true, if_false, ih, Memory.read]
      split <;> [rfl; rw [if_neg (by omega)]]
    · have hk : (k != a) = true := by simpa using h
      simp only [Memory.erase, List.filter_cons, hk, if_true, Memory.read, ih]
      split <;> [rw [if_neg (by omega)]; rfl]

/-- A read after a write gives the byte written there, and every other byte as before. -/
theorem Memory.read_write (m : Memory) (a : Nat) (b : Byte) (q : Nat) :
    Memory.read font (Memory.write font m a b) q = if q = a then b else Memory.read font m q := by
  unfold Memory.write
  split
  · next h => rw [Memory.read_erase, h]
  · exact Memory.read_put font m a b q

theorem Memory.mem_put {m : Memory} {a : Nat} {b : Byte} {c : Host.Cell} (h : c ∈ Memory.put m a b) :
    c = (a, b) ∨ c ∈ m := by
  induction m with
  | nil => simpa [Memory.put] using h
  | cons d rest ih =>
    obtain ⟨k, v⟩ := d
    simp only [Memory.put] at h
    split at h
    · rcases List.mem_cons.1 h with h | h
      · exact .inr (by simp [h])
      · rcases ih h with h | h
        · exact .inl h
        · exact .inr (by simp [h])
    · split at h
      · rcases List.mem_cons.1 h with h | h
        · exact .inl h
        · exact .inr (by simp [h])
      · rcases List.mem_cons.1 h with h | h
        · exact .inl h
        · exact .inr h

theorem Memory.put_sorted {m : Memory} (a : Nat) (b : Byte) (h : m.Pairwise (fun c d => c.1 < d.1)) :
    (Memory.put m a b).Pairwise (fun c d => c.1 < d.1) := by
  induction m with
  | nil => simp [Memory.put]
  | cons c rest ih =>
    obtain ⟨k, v⟩ := c
    obtain ⟨hk, hr⟩ := List.pairwise_cons.1 h
    simp only [Memory.put]
    split
    · next hlt =>
      refine List.pairwise_cons.2 ⟨fun d hd => ?_, ih hr⟩
      rcases Memory.mem_put hd with rfl | hd
      · exact hlt
      · exact hk d hd
    · split
      · next heq => subst heq; exact List.pairwise_cons.2 ⟨hk, hr⟩
      · refine List.pairwise_cons.2 ⟨fun d hd => ?_, h⟩
        rcases List.mem_cons.1 hd with rfl | hd
        · show a < k; omega
        · have := hk d hd; show a < d.1; simp only at this; omega

/-- Every write keeps the canonical form. -/
theorem Memory.write_wf {m : Memory} (h : Memory.wf font m) {a : Nat} (ha : a < Config.memSize) (b : Byte) :
    Memory.wf font (Memory.write font m a b) := by
  unfold Memory.write
  split
  · exact ⟨h.1.sublist List.filter_sublist, fun c hc => h.2 c (List.mem_of_mem_filter hc)⟩
  · next hb =>
    refine ⟨Memory.put_sorted a b h.1, fun c hc => ?_⟩
    rcases Memory.mem_put hc with rfl | hc
    · exact ⟨ha, hb⟩
    · exact h.2 c hc

/-- The empty list is the reset memory, in canonical form. -/
theorem Memory.wf_nil : Memory.wf font [] := ⟨List.Pairwise.nil, fun _ h => absurd h List.not_mem_nil⟩

variable (s : State)

/-- Reading a byte of the machine after writing one. -/
theorem State.readByte_writeByte (a : Nat) (b : Byte) (q : Nat) :
    (s.writeByte a b).readByte q = if q = a then b else s.readByte q :=
  Memory.read_write s.params.font s.mem a b q

@[simp] theorem State.readByte_writeByte_same (a : Nat) (b : Byte) : (s.writeByte a b).readByte a = b := by
  rw [State.readByte_writeByte, if_pos rfl]

theorem State.readByte_writeByte_other {a q : Nat} (b : Byte) (h : q ≠ a) :
    (s.writeByte a b).readByte q = s.readByte q := by
  rw [State.readByte_writeByte, if_neg h]

/-- The image copy of reset: the image's bytes from `a` up, every other byte as before. -/
theorem State.writeImage_readByte (bs : List Byte) (a q : Nat) :
    (s.writeImage a bs).readByte q = if h : a ≤ q ∧ q - a < bs.length then bs[q - a] else s.readByte q := by
  induction bs generalizing s a with
  | nil => simp [State.writeImage]
  | cons b rest ih =>
    simp only [State.writeImage, ih, State.readByte_writeByte, List.length_cons]
    by_cases h : q = a
    · subst h; simp
    · by_cases h1 : a + 1 ≤ q ∧ q - (a + 1) < rest.length
      · have h2 : a ≤ q ∧ q - a < rest.length + 1 := by omega
        have h3 : q - a = q - (a + 1) + 1 := by omega
        rw [dif_pos h1, dif_pos h2]; simp only [h3, List.getElem_cons_succ]
      · have h2 : ¬(a ≤ q ∧ q - a < rest.length + 1) := by omega
        rw [dif_neg h1, dif_neg h2, if_neg h]

end Sys2Proof.Machine
end

