-- ==== Sys2Proof/Laws/Ops.lean ====
section
/-!
SUPPORT. One lemma per shared operation that says what it does: registers, effective addresses, stores and loads through
`I`, the stack, key sampling, flags.
-/

namespace Sys2Proof.Machine

variable (s : State)

/-! ### Registers -/

theorem State.getV_setV (r : Reg) (b : Byte) (q : Reg) : (s.setV r b).getV q = if q = r then b else s.getV q := by
  simp only [State.getV, State.setV, Vector.get_eq_getElem, Vector.getElem_set]
  by_cases h : q = r
  · simp [h]
  · rw [if_neg (fun e => h (Fin.ext e.symm)), if_neg h]

@[simp] theorem State.getV_setV_same (r : Reg) (b : Byte) : (s.setV r b).getV r = b := by
  rw [State.getV_setV, if_pos rfl]

theorem State.getV_setV_other {r q : Reg} (b : Byte) (h : q ≠ r) : (s.setV r b).getV q = s.getV q := by
  rw [State.getV_setV, if_neg h]

/-- The destination holds the result, whatever the flag (42_alu.md R152). -/
@[simp] theorem State.getV_setFlagThen_dst (f : Byte) (x : Reg) (b : Byte) : (s.setFlagThen f x b).getV x = b := by
  simp [State.setFlagThen]

/-- VF holds the flag unless it is the destination (42_alu.md R152). -/
theorem State.getV_setFlagThen_VF (f : Byte) {x : Reg} (b : Byte) (h : x ≠ VF) :
    (s.setFlagThen f x b).getV VF = f := by
  rw [State.setFlagThen, State.getV_setV_other _ _ (Ne.symm h), State.getV_setV_same]

theorem State.getV_setFlagThen_other (f : Byte) {x q : Reg} (b : Byte) (h : q ≠ x) (hf : q ≠ VF) :
    (s.setFlagThen f x b).getV q = s.getV q := by
  rw [State.setFlagThen, State.getV_setV_other _ _ h, State.getV_setV_other _ _ hf]

/-! ### Effective addresses -/

/-- `(base + k) & 0xFFF` is the sum modulo 4096 (20_memory.md R62). -/
theorem effAddr_eq (base : Word) (k : Nat) : effAddr base k = (base.toNat + k) % 4096 := by
  simp only [effAddr, BitVec.toNat_and, BitVec.toNat_add, BitVec.toNat_ofNat]
  rw [show (0xFFF % 2 ^ 16 : Nat) = 2 ^ 12 - 1 from rfl, Nat.and_two_pow_sub_one_eq_mod]
  omega

theorem effAddr_lt (base : Word) (k : Nat) : effAddr base k < Config.memSize := by
  rw [effAddr_eq]; exact Nat.mod_lt _ (by decide)

/-! ### Stores through `I` -/

/-- Every byte outside the stored addresses reads as before. -/
theorem State.storeBytes_readByte_other (base : Word) (bs : List Byte) (k q : Nat)
    (h : ∀ j, j < bs.length → q ≠ effAddr base (k + j)) : (s.storeBytes base k bs).readByte q = s.readByte q := by
  induction bs generalizing s k with
  | nil => rfl
  | cons b rest ih =>
    rw [State.storeBytes, ih _ _ fun j hj => ?_, State.readByte_writeByte_other _ _ (by simpa using h 0 (by simp))]
    have := h (j + 1) (by simp; omega)
    rwa [show k + (j + 1) = k + 1 + j by omega] at this

/-- The `j`-th stored byte reads back, when the addresses do not wrap onto each other. -/
theorem State.storeBytes_readByte (base : Word) (bs : List Byte) (k : Nat) (hl : bs.length ≤ 4096) (j : Nat)
    (hj : j < bs.length) : (s.storeBytes base k bs).readByte (effAddr base (k + j)) = bs[j] := by
  induction bs generalizing s k j with
  | nil => simp at hj
  | cons b rest ih =>
    simp only [List.length_cons] at hl hj
    cases j with
    | zero =>
      rw [State.storeBytes, State.storeBytes_readByte_other]
      · simp
      · intro i hi; rw [effAddr_eq, effAddr_eq]; omega
    | succ j =>
      rw [State.storeBytes, show k + (j + 1) = k + 1 + j by omega, ih _ _ (by omega) _ (by omega)]; rfl

/-- Every byte stored through `I` reads back at its address, written as the spec writes it. -/
theorem State.storeBytes_readByte_mod (bs : List Byte) (hl : bs.length ≤ 4096) (j : Nat) (hj : j < bs.length) :
    (s.storeBytes s.I 0 bs).readByte ((s.I.toNat + j) % 4096) = bs[j] := by
  have h := s.storeBytes_readByte s.I bs 0 hl j hj
  rwa [Nat.zero_add, effAddr_eq] at h

/-- A store through `I` touches nothing but memory. -/
theorem State.storeBytes_eq (base : Word) (bs : List Byte) (k : Nat) :
    s.storeBytes base k bs = { s with mem := (s.storeBytes base k bs).mem } := by
  induction bs generalizing s k with
  | nil => rfl
  | cons b rest ih => rw [State.storeBytes, ih]; rfl

theorem State.storeBytes_wf (base : Word) (bs : List Byte) (k : Nat) (h : Memory.wf s.params.font s.mem) :
    Memory.wf s.params.font (s.storeBytes base k bs).mem := by
  induction bs generalizing s k with
  | nil => exact h
  | cons b rest ih => exact ih _ _ (Memory.write_wf _ h (effAddr_lt base k) b)

/-- `V[0]..V[x]` in order. -/
theorem State.regsUpTo_length (x : Reg) : (s.regsUpTo x).length = x.val + 1 := by simp [State.regsUpTo]

theorem State.regsUpTo_getElem (x : Reg) (k : Nat) (h : k < (s.regsUpTo x).length) :
    (s.regsUpTo x)[k] = s.getV (Fin.ofNat 16 k) := by simp [State.regsUpTo]

/-- The image copy of reset touches nothing but memory. -/
theorem State.writeImage_eq (bs : List Byte) (a : Nat) :
    s.writeImage a bs = { s with mem := (s.writeImage a bs).mem } := by
  induction bs generalizing s a with
  | nil => rfl
  | cons b rest ih => rw [State.writeImage, ih]; rfl

theorem State.writeImage_wf (bs : List Byte) (a : Nat) (ha : a + bs.length ≤ Config.memSize)
    (h : Memory.wf s.params.font s.mem) : Memory.wf s.params.font (s.writeImage a bs).mem := by
  induction bs generalizing s a with
  | nil => exact h
  | cons b rest ih =>
    simp only [List.length_cons] at ha
    exact ih _ _ (by omega) (Memory.write_wf _ h (by omega) b)

/-! ### Loads through `I` -/

/-- A load through `I` touches nothing but the general registers, and gives `V[k]` the `k`-th byte for `k ≤ x`. -/
theorem State.loadUpTo_spec (base : Word) (x : Reg) :
    s.loadUpTo base x = { s with V := (s.loadUpTo base x).V } ∧
      ∀ q : Reg, (s.loadUpTo base x).getV q = if q ≤ x then s.readByte (effAddr base q.val) else s.getV q := by
  have key : ∀ n, n ≤ 16 →
      (List.range n).foldl (fun t k => t.setV (Fin.ofNat 16 k) (s.readByte (effAddr base k))) s =
        { s with V := ((List.range n).foldl
            (fun t k => t.setV (Fin.ofNat 16 k) (s.readByte (effAddr base k))) s).V } ∧
      ∀ q : Reg, ((List.range n).foldl (fun t k => t.setV (Fin.ofNat 16 k) (s.readByte (effAddr base k))) s).getV q =
        if q.val < n then s.readByte (effAddr base q.val) else s.getV q := by
    intro n
    induction n with
    | zero => intro _; exact ⟨rfl, fun q => by simp⟩
    | succ n ih =>
      intro hn
      obtain ⟨h1, h2⟩ := ih (by omega)
      rw [List.range_succ, List.foldl_append]
      refine ⟨?_, fun q => ?_⟩
      · simp only [List.foldl_cons, List.foldl_nil]; rw [h1]; rfl
      · simp only [List.foldl_cons, List.foldl_nil, State.getV_setV, h2]
        have hq : (q = Fin.ofNat 16 n) ↔ q.val = n := by
          constructor
          · intro h; rw [h]; simp [Fin.ofNat]; omega
          · intro h; apply Fin.ext; simp [Fin.ofNat]; omega
        by_cases h : q.val = n
        · rw [if_pos (hq.2 h), if_pos (by omega), h]
        · rw [if_neg (fun e => h (hq.1 e))]
          by_cases h' : q.val < n
          · rw [if_pos h', if_pos (by omega)]
          · rw [if_neg h', if_neg (by omega)]
  obtain ⟨h1, h2⟩ := key (x.val + 1) (by omega)
  refine ⟨h1, fun q => (h2 q).trans ?_⟩
  congr 1
  exact propext ⟨fun h => Fin.le_def.2 (by omega), fun h => by have := Fin.le_def.1 h; omega⟩

/-! ### Stack (10_state.md R40) -/

/-- Everything `Push` can do. -/
theorem State.push_cases (a : Word) :
    (s.sp = s.params.stackCapacity ∧ s.push a = .raise .stackOverflow) ∨
    (s.sp ≠ s.params.stackCapacity ∧ s.sp < s.stack.length ∧
      s.push a = .done { s with stack := s.stack.set s.sp a, sp := s.sp + 1 }) ∨
    (s.sp ≠ s.params.stackCapacity ∧ s.stack.length ≤ s.sp ∧ s.push a = .stop .noSuchStackSlot) := by
  unfold State.push
  by_cases h : s.sp = s.params.stackCapacity
  · exact .inl ⟨h, if_pos h⟩
  · rw [if_neg h]
    by_cases h' : s.sp < s.stack.length
    · exact .inr (.inl ⟨h, h', if_pos h'⟩)
    · exact .inr (.inr ⟨h, by omega, if_neg h'⟩)

/-- Everything `Pop` can do. -/
theorem State.pop_cases :
    (s.sp = 0 ∧ s.pop = .raise .stackUnderflow) ∨
    (s.sp ≠ 0 ∧ ∃ h : s.sp - 1 < s.stack.length,
      s.pop = .done (s.stack[s.sp - 1], { s with sp := s.sp - 1 })) ∨
    (s.sp ≠ 0 ∧ s.stack.length ≤ s.sp - 1 ∧ s.pop = .stop .noSuchStackSlot) := by
  unfold State.pop
  by_cases h : s.sp = 0
  · exact .inl ⟨h, if_pos h⟩
  · rw [if_neg h]
    by_cases h' : s.sp - 1 < s.stack.length
    · exact .inr (.inl ⟨h, h', by rw [List.getElem?_eq_getElem h']⟩)
    · exact .inr (.inr ⟨h, by omega, by rw [List.getElem?_eq_none (by omega)]⟩)

/-! ### Keys (44_keys_timers.md) -/

/-- Everything sampling a key can do. -/
theorem State.keyDown_cases (code : Byte) :
    (∃ h : code.toNat < 16, s.keyDown code = .done (s.keys.get ⟨code.toNat, h⟩)) ∨
    (15 < code.toNat ∧ s.keyDown code = .raise .keyOutOfRange) := by
  unfold State.keyDown
  by_cases h : code.toNat < 16
  · exact .inl ⟨h, dif_pos h⟩
  · exact .inr ⟨by omega, dif_neg h⟩

/-- No key is pressed exactly when `lowestKey` answers none. -/
theorem lowestKey_none (keys : Keys) : lowestKey keys = none ↔ ∀ k : Reg, keys.get k = false := by
  simp [lowestKey]

/-- `lowestKey` answers the least pressed key. -/
theorem lowestKey_some (keys : Keys) (k : Reg) :
    lowestKey keys = some k ↔ keys.get k = true ∧ ∀ j : Reg, j < k → keys.get j = false := by
  unfold lowestKey
  rw [List.find?_eq_some_iff_getElem]
  simp only [List.length_finRange, List.getElem_finRange]
  constructor
  · rintro ⟨h, i, hi, hk, hj⟩
    subst hk
    refine ⟨h, fun j hlt => ?_⟩
    have := hj j.val (by simpa [Fin.lt_def] using hlt)
    simpa using this
  · rintro ⟨h, hj⟩
    refine ⟨h, k.val, k.isLt, by simp, fun j hlt => ?_⟩
    have := hj ⟨j, by omega⟩ (by simpa [Fin.lt_def] using hlt)
    simpa using this

/-! ### Timers -/

/-- A timer counts down by 1 and never below 0 (60_exceptions.md R236). -/
theorem countDown_toNat (t : Byte) : (countDown t).toNat = t.toNat - 1 := by
  unfold countDown
  split
  · next h => subst h; rfl
  · next h =>
    have : t.toNat ≠ 0 := fun e => h (BitVec.eq_of_toNat_eq e)
    have := t.isLt
    rw [BitVec.toNat_sub_of_le (by rw [BitVec.le_def]; simp; omega)]; rfl

theorem State.tick_running (h : s.run = .running) :
    s.tick = { s with DT := countDown s.DT, ST := countDown s.ST, sound := decide (countDown s.ST ≠ 0) } := by
  simp [State.tick, h]

theorem State.tick_halted {r : HaltReason} (h : s.run = .halted r) : s.tick = s := by
  simp [State.tick, h]

end Sys2Proof.Machine
end

