-- ==== Sys2Proof/Laws/Display.lean ====
section
/-!
SUPPORT. Drawing, cell by cell: the loops of 40_display.md R102 toggle exactly the cells the sprite lights, and collide
exactly where a lit cell was already true.
-/

namespace Sys2Proof.Machine

theorem FrameBuffer.cell_blank (r : Fin 32) (c : Fin 64) : FrameBuffer.cell FrameBuffer.blank r c = false := by
  simp [FrameBuffer.cell, FrameBuffer.blank, Vector.get_eq_getElem]

theorem FrameBuffer.cell_toggle (fb : FrameBuffer) (r : Fin 32) (c : Fin 64) (r' : Fin 32) (c' : Fin 64) :
    FrameBuffer.cell (FrameBuffer.toggle fb r c) r' c' =
      (FrameBuffer.cell fb r' c' ^^ decide (r' = r ∧ c' = c)) := by
  simp only [FrameBuffer.cell, FrameBuffer.toggle, Vector.get_eq_getElem, Vector.getElem_set]
  by_cases hr : r.val = r'.val
  · have hr' : r' = r := Fin.ext hr.symm
    subst hr'
    rw [if_pos rfl, Vector.getElem_set]
    by_cases hc : c.val = c'.val
    · have hc' : c' = c := Fin.ext hc.symm
      subst hc'; simp
    · have hc' : ¬ c' = c := fun e => hc (by rw [e])
      simp [hc, hc']
  · have hr' : ¬ r' = r := fun e => hr (by rw [e])
    simp [hr, hr']

/-- Plot a list of cells in turn. -/
def Canvas.plotAll (k : Canvas) (ps : List (Fin 32 × Fin 64)) : Canvas := ps.foldl (fun k p => k.plot p.1 p.2) k

theorem Canvas.plotAll_append (k : Canvas) (ps qs : List (Fin 32 × Fin 64)) :
    k.plotAll (ps ++ qs) = (k.plotAll ps).plotAll qs := by simp [Canvas.plotAll]

/-- Plotting distinct cells toggles each of them once and collides where one was true before. -/
theorem Canvas.plotAll_spec (ps : List (Fin 32 × Fin 64)) (k : Canvas) (hn : ps.Nodup) :
    (∀ r c, FrameBuffer.cell (k.plotAll ps).fb r c = (FrameBuffer.cell k.fb r c ^^ decide ((r, c) ∈ ps))) ∧
    (k.plotAll ps).collision = (k.collision || ps.any fun p => FrameBuffer.cell k.fb p.1 p.2) := by
  induction ps generalizing k with
  | nil => exact ⟨fun r c => by simp [Canvas.plotAll], by simp [Canvas.plotAll]⟩
  | cons p ps ih =>
    obtain ⟨hp, hps⟩ := List.nodup_cons.1 hn
    obtain ⟨h1, h2⟩ := ih (k.plot p.1 p.2) hps
    have e : k.plotAll (p :: ps) = (k.plot p.1 p.2).plotAll ps := rfl
    refine ⟨fun r c => ?_, ?_⟩
    · rw [e, h1, Canvas.plot, FrameBuffer.cell_toggle]
      by_cases hpe : (r, c) = p
      · subst hpe; simp [hp]
      · have : ¬ (r = p.1 ∧ c = p.2) := fun h => hpe (Prod.ext h.1 h.2)
        simp [hpe, this]
    · rw [e, h2, List.any_cons, Canvas.plot, Bool.or_assoc]
      congr 2
      refine Bool.eq_iff_iff.2 ?_
      simp only [List.any_eq_true]
      refine exists_congr fun q => and_congr_right fun hq => ?_
      rw [FrameBuffer.cell_toggle]
      have : ¬ (q.1 = p.1 ∧ q.2 = p.2) := fun h => hp ((Prod.ext h.1 h.2 : q = p) ▸ hq)
      simp [this]

/-- The cells a sprite row lights. -/
def rowCells (b : Byte) (cx row : Nat) : List (Fin 32 × Fin 64) :=
  ((List.range 8).filter (spriteBit b)).map fun c => (Fin.ofNat 32 row, Fin.ofNat 64 (cx + c))

theorem Canvas.drawRow_eq (k : Canvas) (b : Byte) (cx row : Nat) :
    k.drawRow b cx row = k.plotAll (rowCells b cx row) := by
  simp [Canvas.drawRow, Canvas.plotAll, rowCells, List.foldl_map, List.foldl_filter]

/-- The cells a sprite lights. -/
def spriteCells (rowByte : Nat → Byte) (cx cy n : Nat) : List (Fin 32 × Fin 64) :=
  (List.range n).flatMap fun r => rowCells (rowByte r) cx (cy + r)

theorem Canvas.drawRows_eq (k : Canvas) (rowByte : Nat → Byte) (cx cy n : Nat) :
    k.drawRows rowByte cx cy n = k.plotAll (spriteCells rowByte cx cy n) := by
  induction n with
  | zero => rfl
  | succ n ih =>
    rw [spriteCells, List.range_succ, List.flatMap_append, Canvas.plotAll_append]
    simp only [Canvas.drawRows] at ih
    rw [Canvas.drawRows, List.range_succ, List.foldl_append, ih]
    simp [spriteCells, Canvas.drawRow_eq]

theorem mem_rowCells {b : Byte} {cx row : Nat} {r : Fin 32} {c : Fin 64} :
    (r, c) ∈ rowCells b cx row ↔
      ∃ j < 8, spriteBit b j = true ∧ row % 32 = r.val ∧ (cx + j) % 64 = c.val := by
  simp only [rowCells, List.mem_map, List.mem_filter, List.mem_range, Prod.mk.injEq, Fin.ext_iff, Fin.ofNat, and_assoc]

theorem mem_spriteCells {rb : Nat → Byte} {cx cy n : Nat} {r : Fin 32} {c : Fin 64} :
    (r, c) ∈ spriteCells rb cx cy n ↔
      ∃ k < n, ∃ j < 8, spriteBit (rb k) j = true ∧ (cy + k) % 32 = r.val ∧ (cx + j) % 64 = c.val := by
  simp only [spriteCells, List.mem_flatMap, List.mem_range, mem_rowCells]

/-- No cell is addressed twice: 8 ≤ 64 columns and at most 32 rows (40_display.md R102). -/
theorem spriteCells_nodup (rb : Nat → Byte) (cx cy n : Nat) (hn : n ≤ 32) : (spriteCells rb cx cy n).Nodup := by
  rw [spriteCells, List.nodup_flatMap]
  refine ⟨fun r _ => ?_, ?_⟩
  · rw [rowCells]
    refine List.Nodup.map_on ?_ ((List.nodup_range).filter _)
    intro a ha b hb h
    simp only [List.mem_filter, List.mem_range, Prod.mk.injEq, Fin.ext_iff, Fin.ofNat] at ha hb h
    omega
  · refine List.Pairwise.imp_of_mem ?_ (List.pairwise_lt_range (n := n))
    intro a b ha hb hlt
    rw [Function.onFun, List.disjoint_left]
    rintro ⟨r, c⟩ h1 h2
    rw [mem_rowCells] at h1 h2
    obtain ⟨_, _, _, e1, _⟩ := h1
    obtain ⟨_, _, _, e2, _⟩ := h2
    rw [List.mem_range] at ha hb
    omega

/-- Drawing, cell by cell, and its collision (40_display.md R102). -/
theorem Canvas.drawRows_spec (k : Canvas) (rb : Nat → Byte) (cx cy n : Nat) (hn : n ≤ 32) :
    (∀ r c, FrameBuffer.cell (k.drawRows rb cx cy n).fb r c =
      (FrameBuffer.cell k.fb r c ^^ decide ((r, c) ∈ spriteCells rb cx cy n))) ∧
    (k.drawRows rb cx cy n).collision =
      (k.collision || (spriteCells rb cx cy n).any fun p => FrameBuffer.cell k.fb p.1 p.2) := by
  rw [Canvas.drawRows_eq]
  exact Canvas.plotAll_spec _ _ (spriteCells_nodup rb cx cy n hn)

/-- `spriteLit` is membership in the cells the loops visit. -/
theorem State.spriteLit_eq (s : State) (x y : Reg) (n : Nat) (r : Fin 32) (c : Fin 64) :
    s.spriteLit x y n r c = decide ((r, c) ∈ spriteCells s.spriteRow (s.getV x).toNat (s.getV y).toNat n) := by
  refine Bool.eq_iff_iff.2 ?_
  rw [decide_eq_true_iff, mem_spriteCells]
  simp only [State.spriteLit, List.any_eq_true, List.mem_range, Bool.and_eq_true, beq_iff_eq, State.spriteRow,
    effAddr_eq, spriteBit, and_assoc]

end Sys2Proof.Machine
end

