-- ==== Sys2Proof/Laws/Exec.lean ====
section
/-!
SUPPORT. What executing an instruction can do, said once: the frame of each shape of instruction, and `exec_cases`, from
which facts about every step follow without unfolding a meaning.
-/

namespace Sys2Proof.Machine

variable (s : State)

/-! ### Frames of the shared shapes -/

theorem State.frame_refl (e : Effect) : State.Frame e s s :=
  ⟨fun _ _ => rfl, fun _ _ => rfl, fun _ => rfl, fun _ => ⟨rfl, rfl⟩, fun _ => rfl, fun _ => rfl, fun _ => ⟨rfl, rfl⟩,
    fun _ => ⟨rfl, rfl⟩, ⟨rfl, rfl, rfl⟩, ⟨rfl, rfl, rfl⟩⟩

theorem State.frame_setPc (a : Word) : State.Frame {} s (s.setPc a) := by constructor <;> simp

theorem State.frame_skipIf (c : Bool) : State.Frame {} s (s.skipIf c) := State.frame_setPc s _

theorem State.frame_setV (r : Reg) (b : Byte) : State.Frame { regs := [r] } s (s.setV r b).advance := by
  constructor <;> try simp
  exact fun q hq => State.getV_setV_other _ _ hq

theorem State.frame_setFlagThen (f : Byte) (x : Reg) (b : Byte) :
    State.Frame { regs := [x, VF] } s (s.setFlagThen f x b).advance := by
  constructor <;> try simp
  exact fun q hx hf => State.getV_setFlagThen_other _ _ _ hx hf

theorem State.frame_setI (a : Word) : State.Frame { index := true } s (s.setI a).advance := by constructor <;> simp

theorem State.frame_setDT (b : Byte) : State.Frame { delay := true } s (s.setDT b).advance := by constructor <;> simp

theorem State.frame_setST (b : Byte) : State.Frame { soundTimer := true } s (s.setST b).advance := by
  constructor <;> simp

theorem State.frame_rnd (x : Reg) (b : Byte) :
    State.Frame { regs := [x], random := true } s (s.afterDraw.setV x b).advance := by
  constructor <;> try simp
  exact fun q hq => State.getV_setV_other _ _ hq

theorem State.frame_showFrame (fb : FrameBuffer) : State.Frame { display := true } s (s.showFrame fb).advance := by
  constructor <;> simp

theorem State.frame_drw (b : Byte) (fb : FrameBuffer) :
    State.Frame { regs := [VF], display := true } s ((s.setV VF b).showFrame fb).advance := by
  constructor <;> try simp
  exact fun q hq => State.getV_setV_other _ _ hq

/-- A store through `I` of the bytes `bs` changes at most the bytes at `(I + j) mod 4096`. -/
theorem State.frame_storeBytes (bs : List Byte) (l : List Nat) (h : ∀ j, j < bs.length → (s.I.toNat + j) % 4096 ∈ l) :
    State.Frame { bytes := l } s (s.storeBytes s.I 0 bs).advance := by
  have e := s.storeBytes_eq s.I bs 0
  have hb : ∀ a, a ∉ l → (s.storeBytes s.I 0 bs).advance.readByte a = s.readByte a := fun a ha => by
    rw [State.advance_readByte]
    refine State.storeBytes_readByte_other _ _ _ _ _ fun j hj e => ha ?_
    rw [e, effAddr_eq, Nat.zero_add]; exact h j hj
  rw [e] at hb ⊢
  exact { State.frame_refl s _ with bytes := hb }

/-- A load through `I` changes at most the registers up to `x`. -/
theorem State.frame_loadUpTo (base : Word) (x : Reg) (l : List Reg) (h : ∀ r, r ≤ x → r ∈ l) :
    State.Frame { regs := l } s (s.loadUpTo base x).advance := by
  obtain ⟨e, hv⟩ := s.loadUpTo_spec base x
  have hr : ∀ r, r ∉ l → (s.loadUpTo base x).advance.getV r = s.getV r := fun r hr => by
    rw [State.advance_getV, hv, if_neg (fun hle => hr (h r hle))]
  rw [e] at hr ⊢
  exact { State.frame_refl s _ with regs := hr }

/-! ### What each instruction may write -/

/-- The effect of an instruction, from 10_state.md R33, R38, R39, R42, R44 and 20_memory.md R68. -/
def Instr.writes (s : State) : Instr → Effect
  | .cls => { display := true }
  | .ret => { stack := true }
  | .jp _ => { }
  | .call _ => { stack := true }
  | .seImm _ _ => { }
  | .sneImm _ _ => { }
  | .seReg _ _ => { }
  | .ldImm x _ => { regs := [x] }
  | .addImm x _ => { regs := [x] }
  | .ldReg x _ => { regs := [x] }
  | .orReg x _ => { regs := [x] }
  | .andReg x _ => { regs := [x] }
  | .xorReg x _ => { regs := [x] }
  | .addReg x _ => { regs := [x, VF] }
  | .subReg x _ => { regs := [x, VF] }
  | .shrReg x _ => { regs := [x, VF] }
  | .subnReg x _ => { regs := [x, VF] }
  | .shlReg x _ => { regs := [x, VF] }
  | .sneReg _ _ => { }
  | .ldI _ => { index := true }
  | .jpV0 _ => { }
  | .rnd x _ => { regs := [x], random := true }
  | .drw _ _ _ => { regs := [VF], display := true }
  | .skp _ => { }
  | .sknp _ => { }
  | .ldVxDt x => { regs := [x] }
  | .ldVxK x => { regs := [x] }
  | .ldDtVx _ => { delay := true }
  | .ldStVx _ => { soundTimer := true }
  | .addI _ => { index := true }
  | .ldF _ => { index := true }
  | .ldB _ => { bytes := (List.range 3).map fun k => (s.I.toNat + k) % 4096 }
  | .storeRegs x => { bytes := (List.range (x.val + 1)).map fun k => (s.I.toNat + k) % 4096 }
  | .loadRegs x => { regs := (List.finRange 16).filter fun k => decide (k ≤ x) }

/-- Everything executing an instruction can do: its effect, its one fault, or (outside the stack's invariant) a stop. -/
theorem exec_cases (i : Instr) :
    (∃ t, exec i s = .next t ∧ State.Frame (Instr.writes s i) s t) ∨
    (∃ kind, kind ≠ .illegalAddress ∧ kind ≠ .unsupportedOpcode ∧
      exec i s = .next (s.raiseFault kind (some (encode i)))) ∨
    exec i s = .fault .noSuchStackSlot := by
  have stored : ∀ bs : List Byte, ∀ n, bs.length = n →
      State.Frame { bytes := (List.range n).map fun k => (s.I.toNat + k) % 4096 } s
        (s.storeBytes s.I 0 bs).advance := fun bs n hn =>
    State.frame_storeBytes s bs _ fun j hj => List.mem_map.2 ⟨j, List.mem_range.2 (hn ▸ hj), rfl⟩
  cases i with
  | cls => exact .inl ⟨_, rfl, State.frame_showFrame s _⟩
  | ret =>
    obtain ⟨_, h⟩ | ⟨_, _, h⟩ | ⟨_, _, h⟩ := s.pop_cases
    · exact .inr (.inl ⟨.stackUnderflow, by decide, by decide, by rw [exec, execRet, h]; rfl⟩)
    · refine .inl ⟨_, by rw [exec, execRet, h]; rfl, ?_⟩
      exact { State.frame_refl s _ with stack := fun e => nomatch e }
    · exact .inr (.inr (by rw [exec, execRet, h]; rfl))
  | jp nnn => exact .inl ⟨_, rfl, State.frame_setPc s _⟩
  | call nnn =>
    obtain ⟨_, h⟩ | ⟨_, _, h⟩ | ⟨_, _, h⟩ := s.push_cases s.pc
    · exact .inr (.inl ⟨.stackOverflow, by decide, by decide, by rw [exec, execCall, h]; rfl⟩)
    · refine .inl ⟨_, by rw [exec, execCall, h]; rfl, ?_⟩
      exact { State.frame_refl s _ with stack := fun e => nomatch e }
    · exact .inr (.inr (by rw [exec, execCall, h]; rfl))
  | seImm x nn => exact .inl ⟨_, rfl, State.frame_skipIf s _⟩
  | sneImm x nn => exact .inl ⟨_, rfl, State.frame_skipIf s _⟩
  | seReg x y => exact .inl ⟨_, rfl, State.frame_skipIf s _⟩
  | ldImm x nn => exact .inl ⟨_, rfl, State.frame_setV s _ _⟩
  | addImm x nn => exact .inl ⟨_, rfl, State.frame_setV s _ _⟩
  | ldReg x y => exact .inl ⟨_, rfl, State.frame_setV s _ _⟩
  | orReg x y => exact .inl ⟨_, rfl, State.frame_setV s _ _⟩
  | andReg x y => exact .inl ⟨_, rfl, State.frame_setV s _ _⟩
  | xorReg x y => exact .inl ⟨_, rfl, State.frame_setV s _ _⟩
  | addReg x y => exact .inl ⟨_, rfl, State.frame_setFlagThen s _ _ _⟩
  | subReg x y => exact .inl ⟨_, rfl, State.frame_setFlagThen s _ _ _⟩
  | shrReg x y => exact .inl ⟨_, rfl, State.frame_setFlagThen s _ _ _⟩
  | subnReg x y => exact .inl ⟨_, rfl, State.frame_setFlagThen s _ _ _⟩
  | shlReg x y => exact .inl ⟨_, rfl, State.frame_setFlagThen s _ _ _⟩
  | sneReg x y => exact .inl ⟨_, rfl, State.frame_skipIf s _⟩
  | ldI nnn => exact .inl ⟨_, rfl, State.frame_setI s _⟩
  | jpV0 nnn => exact .inl ⟨_, rfl, State.frame_setPc s _⟩
  | rnd x nn => exact .inl ⟨_, rfl, State.frame_rnd s _ _⟩
  | drw x y n => exact .inl ⟨_, rfl, State.frame_drw s _ _⟩
  | skp x =>
    obtain ⟨_, h⟩ | ⟨_, h⟩ := s.keyDown_cases (s.getV x)
    · exact .inl ⟨_, by rw [exec, execSkp, h]; rfl, State.frame_skipIf s _⟩
    · exact .inr (.inl ⟨.keyOutOfRange, by decide, by decide, by rw [exec, execSkp, h]; rfl⟩)
  | sknp x =>
    obtain ⟨_, h⟩ | ⟨_, h⟩ := s.keyDown_cases (s.getV x)
    · exact .inl ⟨_, by rw [exec, execSknp, h]; rfl, State.frame_skipIf s _⟩
    · exact .inr (.inl ⟨.keyOutOfRange, by decide, by decide, by rw [exec, execSknp, h]; rfl⟩)
  | ldVxDt x => exact .inl ⟨_, rfl, State.frame_setV s _ _⟩
  | ldVxK x =>
    cases h : lowestKey s.keys with
    | some k => exact .inl ⟨_, by rw [exec, execLdVxK, h], State.frame_setV s _ _⟩
    | none => exact .inl ⟨s, by rw [exec, execLdVxK, h], State.frame_refl s _⟩
  | ldDtVx x => exact .inl ⟨_, rfl, State.frame_setDT s _⟩
  | ldStVx x => exact .inl ⟨_, rfl, State.frame_setST s _⟩
  | addI x => exact .inl ⟨_, rfl, State.frame_setI s _⟩
  | ldF x => exact .inl ⟨_, rfl, State.frame_setI s _⟩
  | ldB x => exact .inl ⟨_, rfl, stored _ 3 rfl⟩
  | storeRegs x => exact .inl ⟨_, rfl, stored _ _ (s.regsUpTo_length x)⟩
  | loadRegs x =>
    exact .inl ⟨_, rfl, State.frame_loadUpTo s _ _ _ fun r hr =>
      List.mem_filter.2 ⟨List.mem_finRange r, by simpa using hr⟩⟩

variable {s} in
/-- What it takes for executing an instruction to answer a next state: its effect, or its one fault. -/
theorem exec_next {i : Instr} {t : State} (h : exec i s = .next t) :
    State.Frame (Instr.writes s i) s t ∨
    ∃ kind, kind ≠ .illegalAddress ∧ kind ≠ .unsupportedOpcode ∧ t = s.raiseFault kind (some (encode i)) := by
  obtain ⟨u, hu, hf⟩ | ⟨k, h1, h2, hk⟩ | hs := exec_cases s i
  · rw [h] at hu; cases hu; exact .inl hf
  · rw [h] at hk; cases hk; exact .inr ⟨k, h1, h2, rfl⟩
  · rw [h] at hs; cases hs

/-! ### What a step can do -/

theorem State.pcInRange_iff : s.pcInRange = true ↔ fetchable s.pc := by simp [State.pcInRange]

/-- An engine step that fetches decodes and executes the word fetched at `pc`. -/
theorem State.engineStep_runWord (hr : s.run = .running) (hs : s.stop = false) (hp : fetchable s.pc) :
    s.engineStep = s.runWord s.fetchWord := by
  simp [State.engineStep, hr, hs, (s.pcInRange_iff).2 hp]

/-- Everything an engine step can do. -/
theorem State.engineStep_cases :
    (∃ r, s.run = .halted r ∧ s.engineStep = .next s) ∨
    (s.run = .running ∧ s.stop = true ∧ s.engineStep = .next s.haltStopped) ∨
    (s.run = .running ∧ s.stop = false ∧ ¬fetchable s.pc ∧
      s.engineStep = .next (s.raiseFault .illegalAddress none)) ∨
    (s.run = .running ∧ s.stop = false ∧ fetchable s.pc ∧ ∃ why, decodeWord s.fetchWord = .unsupported why ∧
      s.engineStep = .next (s.raiseFault .unsupportedOpcode (some s.fetchWord))) ∨
    (s.run = .running ∧ s.stop = false ∧ fetchable s.pc ∧ ∃ i, decodeWord s.fetchWord = .instr i ∧
      s.engineStep = exec i s) := by
  cases hr : s.run with
  | halted r => exact .inl ⟨r, rfl, by simp [State.engineStep, hr]⟩
  | running =>
    refine .inr ?_
    cases hs : s.stop with
    | true => exact .inl ⟨rfl, rfl, by simp [State.engineStep, hr, hs]⟩
    | false =>
      refine .inr ?_
      by_cases hp : fetchable s.pc
      · have hp' := (s.pcInRange_iff).2 hp
        refine .inr ?_
        cases hd : decodeWord s.fetchWord with
        | unsupported why =>
          exact .inl ⟨rfl, rfl, hp, why, rfl, by simp [State.engineStep, hr, hs, hp', State.runWord, hd]⟩
        | instr i => exact .inr ⟨rfl, rfl, hp, i, rfl, by simp [State.engineStep, hr, hs, hp', State.runWord, hd]⟩
      · have hp' : s.pcInRange = false := Bool.eq_false_iff.2 fun h => hp ((s.pcInRange_iff).1 h)
        exact .inl ⟨rfl, rfl, hp, by simp [State.engineStep, hr, hs, hp']⟩

/-- A step is the next agent's turn on the state with that turn taken off. -/
theorem step_eq_takeTurn : step s = s.afterTurn.takeTurn s.nextTurn := by
  unfold step State.afterTurn State.nextTurn
  cases h : s.turns with
  | nil =>
    have e : ({ s with turns := ([] : List Turn).tail } : State) = s := by rw [List.tail_nil, ← h]
    rw [e]; rfl
  | cons t rest => rfl

/-- Everything a step can do. -/
theorem step_cases :
    (s.nextTurn = .engine ∧ step s = s.afterTurn.engineStep) ∨
    (s.nextTurn = .tick ∧ step s = .next s.afterTurn.tick) ∨
    (∃ keys, s.nextTurn = .setKeys keys ∧ step s = .next (s.afterTurn.setKeys keys)) ∨
    (s.nextTurn = .requestStop ∧ step s = .next s.afterTurn.requestStop) := by
  rw [step_eq_takeTurn]
  cases h : s.nextTurn with
  | engine => exact .inl ⟨rfl, rfl⟩
  | tick => exact .inr (.inl ⟨rfl, rfl⟩)
  | setKeys keys => exact .inr (.inr (.inl ⟨keys, rfl, rfl⟩))
  | requestStop => exact .inr (.inr (.inr ⟨rfl, rfl⟩))

variable {s} in
/-- Everything a step that answers a next state has done: an instruction executed, the run ended before one was, or
nothing but the turn of a halted engine or of the environment. -/
theorem step_next {t : State} (h : step s = .next t) :
    (∃ i, s.Executes i ∧ exec i s.afterTurn = .next t) ∨
    (s.nextTurn = .engine ∧ s.run = .running ∧
      ((s.stop = true ∧ t = s.afterTurn.haltStopped) ∨
       (s.stop = false ∧ ¬fetchable s.pc ∧ t = s.afterTurn.raiseFault .illegalAddress none) ∨
       (s.stop = false ∧ fetchable s.pc ∧ t = s.afterTurn.raiseFault .unsupportedOpcode (some s.fetchWord)))) ∨
    (s.nextTurn = .engine ∧ s.run ≠ .running ∧ t = s.afterTurn) ∨
    (s.nextTurn = .tick ∧ t = s.afterTurn.tick) ∨
    (∃ keys, s.nextTurn = .setKeys keys ∧ t = s.afterTurn.setKeys keys) ∨
    (s.nextTurn = .requestStop ∧ t = s.afterTurn.requestStop) := by
  obtain ⟨hn, he⟩ | ⟨hn, he⟩ | ⟨k, hn, he⟩ | ⟨hn, he⟩ := step_cases s
  · obtain ⟨r, hr, e⟩ | ⟨hr, hs, e⟩ | ⟨hr, hs, hp, e⟩ | ⟨hr, hs, hp, why, hd, e⟩ | ⟨hr, hs, hp, i, hd, e⟩ :=
      s.afterTurn.engineStep_cases
    all_goals rw [he, e] at h
    · cases h; simp at hr; simp [hn, hr]
    · cases h; exact .inr (.inl ⟨hn, hr, .inl ⟨hs, rfl⟩⟩)
    · cases h; exact .inr (.inl ⟨hn, hr, .inr (.inl ⟨hs, hp, rfl⟩)⟩)
    · cases h; exact .inr (.inl ⟨hn, hr, .inr (.inr ⟨hs, hp, rfl⟩)⟩)
    · exact .inl ⟨i, ⟨⟨hn, hr, hs, hp⟩, hd⟩, h⟩
  · rw [he] at h; cases h; simp [hn]
  · rw [he] at h; cases h; simp [hn]
  · rw [he] at h; cases h; simp [hn]

end Sys2Proof.Machine
end

