-- ==== Sys2Proof/Laws/PerInstr.lean ====
section
/-!
SUPPORT. Facts about every instruction as syntax, one lemma per constructor.
-/

namespace Sys2Proof.Laws.EncodeMatchesRow

/-- The word of an instruction matches its own row of the opcode map, and the row is one of the map's 34 (30_encoding.md
R84, R85). -/
def Statement (i : Instr) : Prop := encode i &&& i.row.mask = i.row.value ∧ i.row ∈ opcodeMap

theorem masked_or (a b m : Word) : (a ||| b) &&& m = (a &&& m) ||| (b &&& m) := by
  ext j hj; simp [Bool.and_or_distrib_right]

theorem placeX_F000 (x : Reg) : placeX x &&& 0xF000#16 = 0 := by revert x; decide
theorem placeX_F00F (x : Reg) : placeX x &&& 0xF00F#16 = 0 := by revert x; decide
theorem placeX_F0FF (x : Reg) : placeX x &&& 0xF0FF#16 = 0 := by revert x; decide
theorem placeY_F000 (y : Reg) : placeY y &&& 0xF000#16 = 0 := by revert y; decide
theorem placeY_F00F (y : Reg) : placeY y &&& 0xF00F#16 = 0 := by revert y; decide
theorem nnn_F000 (v : Imm12) : v.setWidth 16 &&& 0xF000#16 = 0 := by ext j hj; interval_cases j <;> simp
theorem nn_F000 (v : Byte) : v.setWidth 16 &&& 0xF000#16 = 0 := by ext j hj; interval_cases j <;> simp
theorem n_F000 (v : BitVec 4) : v.setWidth 16 &&& 0xF000#16 = 0 := by ext j hj; interval_cases j <;> simp

theorem cls : Statement .cls :=
  ⟨by decide, by decide⟩

theorem ret : Statement .ret :=
  ⟨by decide, by decide⟩

theorem jp (nnn : Imm12) : Statement (.jp nnn) :=
  ⟨by simp [encode, Instr.row, masked_or, nnn_F000], by simp [Instr.row, opcodeMap]⟩

theorem call (nnn : Imm12) : Statement (.call nnn) :=
  ⟨by simp [encode, Instr.row, masked_or, nnn_F000], by simp [Instr.row, opcodeMap]⟩

theorem seImm (x : Reg) (nn : Byte) : Statement (.seImm x nn) :=
  ⟨by simp [encode, Instr.row, masked_or, placeX_F000, nn_F000], by simp [Instr.row, opcodeMap]⟩

theorem sneImm (x : Reg) (nn : Byte) : Statement (.sneImm x nn) :=
  ⟨by simp [encode, Instr.row, masked_or, placeX_F000, nn_F000], by simp [Instr.row, opcodeMap]⟩

theorem seReg (x y : Reg) : Statement (.seReg x y) :=
  ⟨by simp [encode, Instr.row, masked_or, placeX_F00F, placeY_F00F], by simp [Instr.row, opcodeMap]⟩

theorem ldImm (x : Reg) (nn : Byte) : Statement (.ldImm x nn) :=
  ⟨by simp [encode, Instr.row, masked_or, placeX_F000, nn_F000], by simp [Instr.row, opcodeMap]⟩

theorem addImm (x : Reg) (nn : Byte) : Statement (.addImm x nn) :=
  ⟨by simp [encode, Instr.row, masked_or, placeX_F000, nn_F000], by simp [Instr.row, opcodeMap]⟩

theorem ldReg (x y : Reg) : Statement (.ldReg x y) :=
  ⟨by simp [encode, Instr.row, masked_or, placeX_F00F, placeY_F00F], by simp [Instr.row, opcodeMap]⟩

theorem orReg (x y : Reg) : Statement (.orReg x y) :=
  ⟨by simp [encode, Instr.row, masked_or, placeX_F00F, placeY_F00F], by simp [Instr.row, opcodeMap]⟩

theorem andReg (x y : Reg) : Statement (.andReg x y) :=
  ⟨by simp [encode, Instr.row, masked_or, placeX_F00F, placeY_F00F], by simp [Instr.row, opcodeMap]⟩

theorem xorReg (x y : Reg) : Statement (.xorReg x y) :=
  ⟨by simp [encode, Instr.row, masked_or, placeX_F00F, placeY_F00F], by simp [Instr.row, opcodeMap]⟩

theorem addReg (x y : Reg) : Statement (.addReg x y) :=
  ⟨by simp [encode, Instr.row, masked_or, placeX_F00F, placeY_F00F], by simp [Instr.row, opcodeMap]⟩

theorem subReg (x y : Reg) : Statement (.subReg x y) :=
  ⟨by simp [encode, Instr.row, masked_or, placeX_F00F, placeY_F00F], by simp [Instr.row, opcodeMap]⟩

theorem shrReg (x y : Reg) : Statement (.shrReg x y) :=
  ⟨by simp [encode, Instr.row, masked_or, placeX_F00F, placeY_F00F], by simp [Instr.row, opcodeMap]⟩

theorem subnReg (x y : Reg) : Statement (.subnReg x y) :=
  ⟨by simp [encode, Instr.row, masked_or, placeX_F00F, placeY_F00F], by simp [Instr.row, opcodeMap]⟩

theorem shlReg (x y : Reg) : Statement (.shlReg x y) :=
  ⟨by simp [encode, Instr.row, masked_or, placeX_F00F, placeY_F00F], by simp [Instr.row, opcodeMap]⟩

theorem sneReg (x y : Reg) : Statement (.sneReg x y) :=
  ⟨by simp [encode, Instr.row, masked_or, placeX_F00F, placeY_F00F], by simp [Instr.row, opcodeMap]⟩

theorem ldI (nnn : Imm12) : Statement (.ldI nnn) :=
  ⟨by simp [encode, Instr.row, masked_or, nnn_F000], by simp [Instr.row, opcodeMap]⟩

theorem jpV0 (nnn : Imm12) : Statement (.jpV0 nnn) :=
  ⟨by simp [encode, Instr.row, masked_or, nnn_F000], by simp [Instr.row, opcodeMap]⟩

theorem rnd (x : Reg) (nn : Byte) : Statement (.rnd x nn) :=
  ⟨by simp [encode, Instr.row, masked_or, placeX_F000, nn_F000], by simp [Instr.row, opcodeMap]⟩

theorem drw (x y : Reg) (n : Nat) : Statement (.drw x y n) :=
  ⟨by simp [encode, Instr.row, masked_or, placeX_F000, placeY_F000, n_F000], by simp [Instr.row, opcodeMap]⟩

theorem skp (x : Reg) : Statement (.skp x) :=
  ⟨by simp [encode, Instr.row, masked_or, placeX_F0FF], by simp [Instr.row, opcodeMap]⟩

theorem sknp (x : Reg) : Statement (.sknp x) :=
  ⟨by simp [encode, Instr.row, masked_or, placeX_F0FF], by simp [Instr.row, opcodeMap]⟩

theorem ldVxDt (x : Reg) : Statement (.ldVxDt x) :=
  ⟨by simp [encode, Instr.row, masked_or, placeX_F0FF], by simp [Instr.row, opcodeMap]⟩

theorem ldVxK (x : Reg) : Statement (.ldVxK x) :=
  ⟨by simp [encode, Instr.row, masked_or, placeX_F0FF], by simp [Instr.row, opcodeMap]⟩

theorem ldDtVx (x : Reg) : Statement (.ldDtVx x) :=
  ⟨by simp [encode, Instr.row, masked_or, placeX_F0FF], by simp [Instr.row, opcodeMap]⟩

theorem ldStVx (x : Reg) : Statement (.ldStVx x) :=
  ⟨by simp [encode, Instr.row, masked_or, placeX_F0FF], by simp [Instr.row, opcodeMap]⟩

theorem addI (x : Reg) : Statement (.addI x) :=
  ⟨by simp [encode, Instr.row, masked_or, placeX_F0FF], by simp [Instr.row, opcodeMap]⟩

theorem ldF (x : Reg) : Statement (.ldF x) :=
  ⟨by simp [encode, Instr.row, masked_or, placeX_F0FF], by simp [Instr.row, opcodeMap]⟩

theorem ldB (x : Reg) : Statement (.ldB x) :=
  ⟨by simp [encode, Instr.row, masked_or, placeX_F0FF], by simp [Instr.row, opcodeMap]⟩

theorem storeRegs (x : Reg) : Statement (.storeRegs x) :=
  ⟨by simp [encode, Instr.row, masked_or, placeX_F0FF], by simp [Instr.row, opcodeMap]⟩

theorem loadRegs (x : Reg) : Statement (.loadRegs x) :=
  ⟨by simp [encode, Instr.row, masked_or, placeX_F0FF], by simp [Instr.row, opcodeMap]⟩

end Sys2Proof.Laws.EncodeMatchesRow
end

