-- ==== Sys2Proof/Tests/Slice0.lean ====
section
/-!
SUPPORT. Tests: words written out bit by bit from 30_encoding.md, the well-formedness check, one-step vectors whose expected
results are those of 95_test_vectors.md (its ids in each comment), and a witness for the hypotheses of every statement.
-/

namespace Sys2Proof.Machine.Tests

/-! ### Small states -/

/-- A register file of zeros but for the values listed. -/
def regs (l : List (Reg × Byte)) : Vector Byte 16 := l.foldl (fun v c => v.set c.1.val c.2) (Vector.replicate 16 0)

/-- The reset state with registers `l`, the word `w` at 0x200. -/
def prog (w : Word) (l : List (Reg × Byte)) : State := { State.reset with V := regs l }.placeWord w

/-- The keys listed, pressed. -/
def pressed (l : List Reg) : Keys := Vector.ofFn fun k => decide (k ∈ l)

/-- The result is a next state with the property. -/
def is (r : Result) (p : State → Bool) : Bool :=
  match r with
  | .next t => p t
  | .fault _ => false
  | .refused _ => false

/-- The property holds after one step of the word `w` at 0x200 with registers `l`. -/
def after (w : Word) (l : List (Reg × Byte)) (p : State → Bool) : Bool := is (step (prog w l)) p

/-- The state halted with that fault, `stop` set, `sound` clear. -/
def faulted (k : FaultKind) (p : Word) (w : Option Word) (t : State) : Bool :=
  decide (t.run = .halted (.fault k p w) ∧ t.pc = p ∧ t.stop = true ∧ t.sound = false)

/-! ### Well-formed terms (30_encoding.md R83) -/

/-- The one check of `Instr.wf`: a row count of 16 is no operand. -/
theorem test_wf_refuses_sixteen_rows : (Instr.drw 0 0 16).wf = false := by decide
theorem test_wf_accepts_fifteen_rows : (Instr.drw 15 15 15).wf = true := by decide

/-! ### Words written out from the `Encoding:` lines -/

theorem test_decode_display :
    decodeWord 0b0000000011100000#16 = .instr .cls ∧
    decodeWord 0b1101001101010111#16 = .instr (.drw 3 5 7) := by decide

theorem test_decode_control :
    decodeWord 0b0000000011101110#16 = .instr .ret ∧
    decodeWord 0b0001101010111100#16 = .instr (.jp 0xABC#12) ∧
    decodeWord 0b0010010101010101#16 = .instr (.call 0x555#12) ∧
    decodeWord 0b0011001101000010#16 = .instr (.seImm 3 0x42#8) ∧
    decodeWord 0b0100001101000010#16 = .instr (.sneImm 3 0x42#8) ∧
    decodeWord 0b0101000100100000#16 = .instr (.seReg 1 2) ∧
    decodeWord 0b1001000100100000#16 = .instr (.sneReg 1 2) ∧
    decodeWord 0b1011001111111110#16 = .instr (.jpV0 0x3FE#12) := by decide

theorem test_decode_alu :
    decodeWord 0b0110101001000010#16 = .instr (.ldImm 0xA 0x42#8) ∧
    decodeWord 0b0111000100100000#16 = .instr (.addImm 1 0x20#8) ∧
    decodeWord 0b1000000100100000#16 = .instr (.ldReg 1 2) ∧
    decodeWord 0b1000000100100001#16 = .instr (.orReg 1 2) ∧
    decodeWord 0b1000000100100010#16 = .instr (.andReg 1 2) ∧
    decodeWord 0b1000000100100011#16 = .instr (.xorReg 1 2) ∧
    decodeWord 0b1000000100100100#16 = .instr (.addReg 1 2) ∧
    decodeWord 0b1000000100100101#16 = .instr (.subReg 1 2) ∧
    decodeWord 0b1000000100100110#16 = .instr (.shrReg 1 2) ∧
    decodeWord 0b1000000100100111#16 = .instr (.subnReg 1 2) ∧
    decodeWord 0b1000000100101110#16 = .instr (.shlReg 1 2) ∧
    decodeWord 0b1100000100001111#16 = .instr (.rnd 1 0x0F#8) := by decide

theorem test_decode_index_memory :
    decodeWord 0b1010001100000000#16 = .instr (.ldI 0x300#12) ∧
    decodeWord 0b1111001000011110#16 = .instr (.addI 2) ∧
    decodeWord 0b1111001100101001#16 = .instr (.ldF 3) ∧
    decodeWord 0b1111101000110011#16 = .instr (.ldB 0xA) ∧
    decodeWord 0b1111001001010101#16 = .instr (.storeRegs 2) ∧
    decodeWord 0b1111111101100101#16 = .instr (.loadRegs 0xF) := by decide

theorem test_decode_keys_timers :
    decodeWord 0b1110010110011110#16 = .instr (.skp 5) ∧
    decodeWord 0b1110010110100001#16 = .instr (.sknp 5) ∧
    decodeWord 0b1111001000001010#16 = .instr (.ldVxK 2) ∧
    decodeWord 0b1111001100000111#16 = .instr (.ldVxDt 3) ∧
    decodeWord 0b1111010000010101#16 = .instr (.ldDtVx 4) ∧
    decodeWord 0b1111010000011000#16 = .instr (.ldStVx 4) := by decide

/-- FX5, FX6, FX7: one unsupported word of each family. -/
theorem test_decode_unsupported :
    decodeWord 0x0000#16 = .unsupported .legacyCall ∧ decodeWord 0x0123#16 = .unsupported .legacyCall ∧
    decodeWord 0x5121#16 = .unsupported .family5 ∧ decodeWord 0x912F#16 = .unsupported .family9 ∧
    decodeWord 0x8128#16 = .unsupported .family8 ∧ decodeWord 0x812F#16 = .unsupported .family8 ∧
    decodeWord 0xE19F#16 = .unsupported .familyE ∧ decodeWord 0xF1FF#16 = .unsupported .familyF ∧
    decodeWord 0xF000#16 = .unsupported .familyF := by decide

/-- Big-endian bytes, two each, and the table's numbering. -/
theorem test_decode_bytes :
    decode [0xA3#8, 0x00#8, 0xD1#8] = .instr (.ldI 0x300#12) [0xD1#8] ∧ decode [0xA3#8] = .truncated ∧
    decode [0x51#8, 0x21#8] = .unsupported .family5 ∧ decodeTableWord 16 0xA300 = some (.ldI 0x300#12) ∧
    decodeTableWord 16 0x5121 = none := by decide

/-- The opcode map of R85: no two rows match one word. -/
theorem test_opcode_rows_disjoint :
    opcodeMap.Pairwise (fun r q => r.value &&& q.mask ≠ q.value &&& r.mask) ∧ opcodeMap.length = 34 := by decide

/-! ### Display -/

/-- DS1. -/
theorem test_cls_clears : is (step ({ prog 0x00E0 [(VF, 1)] with
      FB := FrameBuffer.toggle FrameBuffer.blank 5 5 })) (fun t =>
    decide (t.FB = FrameBuffer.blank ∧ t.getV VF = 1 ∧ t.frames = [FrameBuffer.blank] ∧ t.pc = 0x202#16)) := by decide

/-- DS6: the column is the old VF, and VF ends 0. -/
theorem test_drw_latches_vf :
    is (step ({ prog 0xDF01 [(VF, 3)] with I := 0x300#16 }.writeByte 0x300 0x80)) (fun t =>
      decide (t.FB = FrameBuffer.toggle FrameBuffer.blank 0 3 ∧ t.getV VF = 0 ∧ t.frames.length = 1)) := by decide

/-- DS7 on a cell that is set: rows read modulo 4096, columns kept, VF 1. -/
theorem test_drw_wraps_memory :
    is (step ({ prog 0xD012 [] with I := 0xFFF#16, FB := FrameBuffer.toggle FrameBuffer.blank 0 7 }.writeByte 0xFFF 1))
      (fun t => decide (t.FB = ((FrameBuffer.blank.toggle 1 0).toggle 1 1 |>.toggle 1 2 |>.toggle 1 3) ∧
        t.getV VF = 1 ∧ t.I = 0xFFF#16)) := by decide

/-! ### Control transfer -/

/-- CF4, CF9: the address of the call is pushed; the return goes two past it and keeps the slot. -/
theorem test_call_pushes_its_address : after 0x2555 [] (fun t =>
    decide (t.stack[0]? = some 0x200#16 ∧ t.sp = 1 ∧ t.pc = 0x555#16)) := by decide
theorem test_ret_returns : is (step { prog 0x00EE [] with sp := 1, stack := 0xFFE#16 :: List.replicate 15 0 })
    (fun t => decide (t.sp = 0 ∧ t.pc = 0x1000#16 ∧ t.stack[0]? = some 0xFFE#16)) := by decide

/-- CF5, CF6, CF8: the two stack faults. -/
theorem test_call_overflow : is (step { prog 0x2300 [] with sp := 16 }) (faulted .stackOverflow 0x200 (some 0x2300)) ∧
    is (step { prog 0x2300 [] with
      sp := 12, stack := List.replicate 12 0, params := { Params.reference with stackCapacity := 12 } })
      (faulted .stackOverflow 0x200 (some 0x2300)) := by decide
theorem test_ret_underflow : after 0x00EE [] (faulted .stackUnderflow 0x200 (some 0x00EE)) := by decide

/-- CF1. -/
theorem test_jp : after 0x1ABC [] (fun t => decide (t.pc = 0xABC#16)) := by decide

/-- CF11, CF12, W4. -/
theorem test_skips : after 0x3342 [(3, 0x42)] (fun t => decide (t.pc = 0x204#16)) ∧
    after 0x4342 [(3, 0x42)] (fun t => decide (t.pc = 0x202#16)) ∧
    after 0x5120 [(1, 7), (2, 7)] (fun t => decide (t.pc = 0x204#16)) ∧
    after 0x9120 [(1, 7), (2, 8)] (fun t => decide (t.pc = 0x204#16)) := by decide
theorem test_no_skips : after 0x3343 [(3, 0x42)] (fun t => decide (t.pc = 0x202#16)) ∧
    after 0x4300 [(3, 0x42)] (fun t => decide (t.pc = 0x204#16)) ∧
    after 0x5120 [(1, 7), (2, 8)] (fun t => decide (t.pc = 0x202#16)) ∧
    after 0x9110 [(1, 7)] (fun t => decide (t.pc = 0x202#16)) := by decide

/-- CF19, CF21. -/
theorem test_jp_v0 : after 0xBFFF [(0, 0xFF)] (fun t => decide (t.pc = 0x10FE#16)) ∧
    after 0xB3FE [(0, 5), (3, 0x77)] (fun t => decide (t.pc = 0x403#16)) := by decide

/-! ### Arithmetic -/

/-- AL1. -/
theorem test_ld_imm : after 0x6A42 [] (fun t => decide (t.getV 0xA = 0x42 ∧ t.pc = 0x202#16)) := by decide

/-- AL2, AL3. -/
theorem test_add_imm : after 0x7101 [(1, 0xFF)] (fun t => decide (t.getV 1 = 0 ∧ t.getV VF = 0)) ∧
    after 0x7F01 [(VF, 0xFF)] (fun t => decide (t.getV VF = 0)) := by decide

/-- AL4. -/
theorem test_ld_reg : after 0x8120 [(2, 9)] (fun t => decide (t.getV 1 = 9)) := by decide

/-- AL5, AL6: VF is kept. -/
theorem test_logic : after 0x8121 [(1, 0x0C), (2, 3), (VF, 1)] (fun t => decide (t.getV 1 = 0x0F ∧ t.getV VF = 1)) ∧
    after 0x8122 [(1, 0x0C), (2, 6), (VF, 1)] (fun t => decide (t.getV 1 = 4 ∧ t.getV VF = 1)) ∧
    after 0x8123 [(1, 0x0C), (2, 6), (VF, 1)] (fun t => decide (t.getV 1 = 0xA ∧ t.getV VF = 1)) := by decide

/-- AL12, AL14: VF as destination, VF as source. -/
theorem test_add_reg : after 0x8F14 [(VF, 0xF0), (1, 0x20)] (fun t => decide (t.getV VF = 0x10)) ∧
    after 0x81F4 [(1, 0xFF), (VF, 1)] (fun t => decide (t.getV 1 = 0 ∧ t.getV VF = 1)) := by decide

/-- AL16, AL17, AL18. -/
theorem test_sub_reg : after 0x8125 [(1, 3), (2, 5)] (fun t => decide (t.getV 1 = 0xFE ∧ t.getV VF = 0)) ∧
    after 0x8125 [(1, 5), (2, 5), (VF, 1)] (fun t => decide (t.getV 1 = 0 ∧ t.getV VF = 0)) ∧
    after 0x8F25 [(VF, 5), (2, 3)] (fun t => decide (t.getV VF = 2)) := by decide

/-- AL24, AL25. -/
theorem test_subn_reg : after 0x8127 [(1, 3), (2, 5)] (fun t => decide (t.getV 1 = 2 ∧ t.getV VF = 1)) ∧
    after 0x8127 [(1, 5), (2, 3)] (fun t => decide (t.getV 1 = 0xFE ∧ t.getV VF = 0)) := by decide

/-- AL20, AL22 (SHIFT_SOURCE Y), AL23. -/
theorem test_shr_reg : after 0x8106 [(1, 5)] (fun t => decide (t.getV 1 = 2 ∧ t.getV VF = 1)) ∧
    is (step { prog 0x8126 [(2, 5)] with params := { Params.reference with shiftSource := .y } }) (fun t =>
      decide (t.getV 1 = 2 ∧ t.getV VF = 1 ∧ t.getV 2 = 5)) ∧
    after 0x8F06 [(VF, 3)] (fun t => decide (t.getV VF = 1)) := by decide

/-- AL27, AL29. -/
theorem test_shl_reg : after 0x810E [(1, 0x81)] (fun t => decide (t.getV 1 = 2 ∧ t.getV VF = 1)) ∧
    after 0x8F0E [(VF, 0x81)] (fun t => decide (t.getV VF = 2)) := by decide

/-- AL30 with a byte the source has ready, and the mask of R166. -/
theorem test_rnd : is (step { prog 0xC10F [] with rand := [0xAB, 0xCD] }) (fun t =>
    decide (t.getV 1 = 0x0B ∧ t.rand = [0xCD#8])) := by decide

/-! ### Index register and memory -/

/-- MM1, MM3, MM4, MM6. -/
theorem test_index : after 0xA300 [] (fun t => decide (t.I = 0x300#16)) ∧
    is (step { prog 0xF21E [(2, 1)] with I := 0xFFF#16 }) (fun t => decide (t.I = 0 ∧ t.getV VF = 0)) ∧
    is (step { prog 0xF21E [(2, 0xFF)] with I := 0xF80#16 }) (fun t => decide (t.I = 0x07F#16)) ∧
    after 0xF329 [(3, 0xFF)] (fun t => decide (t.I = 0x4FB#16)) := by decide

/-- MM9: the third digit lands on a font byte. -/
theorem test_ld_b : is (step { prog 0xFA33 [(0xA, 0x7B)] with I := 0xFFE#16 }) (fun t =>
    decide (t.readByte 0xFFE = 1 ∧ t.readByte 0xFFF = 2 ∧ t.readByte 0 = 3 ∧ t.readByte 1 = 0x90 ∧
      t.I = 0xFFE#16)) := by decide

/-- MM11. -/
theorem test_store_regs : is (step { prog 0xF255 [(0, 0xAA), (1, 0xBB), (2, 0xCC)] with I := 0xFFF#16 }) (fun t =>
    decide (t.readByte 0xFFF = 0xAA ∧ t.readByte 0 = 0xBB ∧ t.readByte 1 = 0xCC ∧ t.readByte 2 = 0x90 ∧
      t.I = 0xFFF#16)) := by decide

/-- MM13: font bytes, and the registers above x are kept. -/
theorem test_load_regs : after 0xF165 [(2, 7)] (fun t =>
    decide (t.getV 0 = 0xF0 ∧ t.getV 1 = 0x90 ∧ t.getV 2 = 7 ∧ t.I = 0)) := by decide

/-! ### Keys and timers -/

/-- KT1, KT2. -/
theorem test_key_skips : is (step { prog 0xE59E [(5, 0xA)] with keys := pressed [0xA] }) (fun t =>
      decide (t.pc = 0x204#16)) ∧
    after 0xE59E [(5, 0xA)] (fun t => decide (t.pc = 0x202#16)) ∧
    after 0xE5A1 [(5, 0xA)] (fun t => decide (t.pc = 0x204#16)) := by decide

/-- KT3, KT4. -/
theorem test_key_fault : after 0xE59E [(5, 0x10)] (faulted .keyOutOfRange 0x200 (some 0xE59E)) ∧
    after 0xE5A1 [(5, 0xFF)] (faulted .keyOutOfRange 0x200 (some 0xE5A1)) := by decide

/-- KT5, W9. -/
theorem test_wait : is (step { prog 0xF20A [] with keys := pressed [7, 3] }) (fun t =>
      decide (t.getV 2 = 3 ∧ t.pc = 0x202#16)) ∧
    after 0xF20A [(2, 0x55)] (fun t => decide (t = prog 0xF20A [(2, 0x55)])) := by decide

/-- KT9, KT10's first step, KT11. -/
theorem test_timer_instructions : is (step { prog 0xF307 [] with DT := 0x3C }) (fun t => decide (t.getV 3 = 0x3C)) ∧
    after 0xF415 [(4, 5)] (fun t => decide (t.DT = 5)) ∧
    after 0xF418 [(4, 0x10)] (fun t => decide (t.ST = 0x10 ∧ t.sound = false)) := by decide

/-- KT12, KT13, KT15: the tick. -/
theorem test_tick : is (step { State.reset with ST := 0x10, turns := [.tick] }) (fun t =>
      decide (t.ST = 0x0F ∧ t.sound = true ∧ t.turns = [])) ∧
    is (step { State.reset with ST := 1, DT := 3, turns := [.tick] }) (fun t =>
      decide (t.ST = 0 ∧ t.DT = 2 ∧ t.sound = false)) := by decide

/-! ### Fetch, stop and reset -/

/-- FX1, FX2, FX5, FX11. -/
theorem test_fetch : is (step { State.reset with pc := 0x1FE#16 }) (faulted .illegalAddress 0x1FE none) ∧
    is (step { State.reset with pc := 0xFFF#16 }) (faulted .illegalAddress 0xFFF none) ∧
    is (step State.reset) (faulted .unsupportedOpcode 0x200 (some 0)) ∧
    is (step (({ State.reset with pc := 0x201#16 }.writeByte 0x201 0x6A).writeByte 0x202 1)) (fun t =>
      decide (t.getV 0xA = 1 ∧ t.pc = 0x203#16)) := by decide

/-- FX9, KT14, FX10. -/
theorem test_stop : is (step { State.reset with stop := true, pc := 0x100#16, sound := true }) (fun t =>
      decide (t.run = .halted .stopped ∧ t.pc = 0x100#16 ∧ t.sound = true)) ∧
    is (step { State.reset with ST := 0x20, sound := true, turns := [.requestStop] }) (fun t =>
      decide (t.stop = true ∧ t.sound = false ∧ t.ST = 0x20)) ∧
    is (step { State.reset with run := .halted .stopped, stop := true, DT := 3, turns := [.tick] }) (fun t =>
      decide (t.DT = 3)) := by decide

/-- RS2 (two bytes of it), RS4, RS5. -/
theorem test_reset_image : is (resetImage Params.reference (some [0x12, 0x34])) (fun t =>
      decide (t.readByte 0x200 = 0x12 ∧ t.readByte 0x201 = 0x34 ∧ t.readByte 0 = 0xF0 ∧ t.readByte 0x4F = 0x80 ∧
        t.readByte 0x50 = 0 ∧ t.pc = 0x200#16)) ∧
    resetImage Params.reference none = .refused .imageUnreadable := ⟨by decide, rfl⟩

/-! ### The host's two questions -/

/-- The word placed is the word the next step runs. -/
theorem test_with_fetch_word : State.reset.withFetchWord 16 0x6A42 = prog 0x6A42 [] ∧
    ({ State.reset with pc := 0xFFE#16 }.withFetchWord 16 0x6A42).fetchWord = 0x6A42#16 := by decide

/-! ### Witnesses: the hypotheses of each statement are met, clause by clause, at the ends of their ranges -/

/-- The stopped machine. -/
def stopped : State := { State.reset with run := .halted .stopped, stop := true }

/-- The machine right before a fault at 0xFFE: an unsupported word. -/
def atEnd : State := ({ State.reset with pc := 0xFFE#16 }.writeByte 0xFFE 0x51).writeByte 0xFFF 0x21

theorem test_meets_ResetGivesEveryPieceItsValue : resetImage Params.reference (some []) = .next State.reset ∧
    State.reset.readByte 79 = 0x80 ∧ State.reset.readByte 80 = 0 ∧ State.reset.readByte 4095 = 0 :=
  ⟨rfl, by decide⟩

theorem test_meets_ResetCopiesTheImageOrMakesNoMachine :
    (List.replicate 3584 (0xAA : Byte)).length ≤ 3584 ∧ 3584 < (List.replicate 3585 (0xAA : Byte)).length ∧
    3583 < (List.replicate 3584 (0xAA : Byte)).length := by simp only [List.length_replicate]; decide

theorem test_meets_EveryResetMachineMeetsTheInvariant : Params.reference.ok ∧
    { Params.reference with stackCapacity := 12 }.ok ∧
    resetImage Params.reference (some []) = .next State.reset := ⟨by decide, by decide, rfl⟩

/-- A reset machine with any word at 0x200 meets the invariant. -/
theorem prog_inv (w : Word) (l : List (Reg × Byte)) : (prog w l).Inv := by
  have h := State.writeImage_wf { State.reset with V := regs l } (bytesOfWord w) 0x200
    (show 0x200 + 2 ≤ 4096 by decide)
    (Memory.wf_nil Params.referenceFont)
  show State.Inv (State.writeImage { State.reset with V := regs l } 0x200 (bytesOfWord w))
  rw [State.writeImage_eq]
  exact ⟨show Params.reference.ok by decide, h, ⟨rfl, Nat.zero_le _, nofun⟩, Nat.zero_le _,
    show (0x200#16).toNat ≤ 0x10FE by decide, rfl⟩

theorem test_meets_EveryStepKeepsTheInvariant : (prog 0x2555 []).Inv ∧
    ∃ t, step (prog 0x2555 []) = .next t := ⟨prog_inv _ _, _, rfl⟩

theorem test_meets_AStepAlwaysAnswersANextState : (prog 0x00EE []).Inv ∧ stopped.Inv :=
  ⟨prog_inv _ _, by decide, Memory.wf_nil _, ⟨rfl, Nat.zero_le _, nofun⟩, Nat.zero_le _, by decide, rfl⟩

theorem test_meets_DecodeOfEncodeIsTheInstruction : (Instr.drw 0 0 0).wf = true ∧ (Instr.drw 15 15 15).wf = true ∧
    (Instr.jp 0xFFF#12).wf = true := by decide

theorem test_meets_EncodeOfDecodeIsTheWord : decodeWord 0xFF65#16 = .instr (.loadRegs 15) := by decide

theorem test_meets_DecoderAgreesWithTheOpcodeMap : decodeWord 0x00E0#16 = .instr .cls ∧
    (⟨0xF0FF#16, 0xF065#16⟩ : OpcodeRow) ∈ opcodeMap ∧
    OpcodeRow.hits ⟨0xF0FF#16, 0xF065#16⟩ 0xF065#16 = true := by decide

/-- A word of each line of the table, and its supported neighbours. -/
theorem test_meets_UnsupportedWordsAreExactlyTheTables :
    decodeWord 0x00E1#16 = .unsupported .legacyCall ∧ decodeWord 0x00EE#16 = .instr .ret ∧
    decodeWord 0x500F#16 = .unsupported .family5 ∧ decodeWord 0x8008#16 = .unsupported .family8 ∧
    decodeWord 0x800D#16 = .unsupported .family8 ∧ decodeWord 0x800E#16 = .instr (.shlReg 0 0) ∧
    decodeWord 0x9001#16 = .unsupported .family9 ∧ decodeWord 0xE000#16 = .unsupported .familyE ∧
    decodeWord 0xFFFF#16 = .unsupported .familyF := by decide

theorem test_meets_AStepIsTheTurnOfOneAgent : State.reset.turns = [] ∧
    { State.reset with turns := [.tick, .engine] }.turns = .tick :: [.engine] ∧ State.reset.nextTurn = .engine ∧
    ∃ u, step State.reset = .next u := ⟨rfl, rfl, rfl, _, rfl⟩

/-- `pc` at both ends of its range. -/
theorem test_meets_StepExecutesTheBigEndianWordAtPc : (prog 0x6A42 []).Executes (.ldImm 0xA 0x42) ∧
    ({ State.reset with pc := 0xFFE#16 }.placeWord 0x6A42).Executes (.ldImm 0xA 0x42) := by decide

theorem test_meets_StopIsCheckedBeforeAnythingElse : State.reset.run = .running ∧
    { State.reset with stop := true }.stop = true ∧
    (∃ t, step { State.reset with stop := true } = .next t ∧ t.run = .halted .stopped) := ⟨rfl, rfl, _, rfl, rfl⟩

/-- The stop source's turn, in a running and in a halted core; a pending stop. -/
theorem test_meets_StopSignalIsMonotonic :
    ({ State.reset with turns := [.requestStop] } : State).nextTurn = .requestStop ∧
    ({ stopped with turns := [.requestStop] } : State).nextTurn = .requestStop ∧
    { State.reset with stop := true }.stop = true ∧ { State.reset with stop := true }.run = .running ∧
    ∃ t, step { State.reset with stop := true } = .next t := ⟨rfl, rfl, rfl, rfl, _, rfl⟩

theorem test_meets_PcOutOfRangeFaultsAtTheFetch : State.reset.run = .running ∧ State.reset.stop = false ∧
    ¬fetchable 0x1FF#16 ∧ fetchable 0x200#16 ∧ fetchable 0xFFE#16 ∧ ¬fetchable 0xFFF#16 ∧
    ∃ t, (prog 0x00E0 []).engineStep = .next t := ⟨rfl, rfl, by decide, by decide, by decide, by decide, _, rfl⟩

theorem test_meets_UnsupportedWordFaultsBeforeAnyWrite : atEnd.run = .running ∧ atEnd.stop = false ∧
    fetchable atEnd.pc ∧
    (0x5121#16 : Word) = ((atEnd.readByte atEnd.pc.toNat).setWidth 16 <<< 8) |||
      (atEnd.readByte (atEnd.pc.toNat + 1)).setWidth 16 ∧
    decodeWord 0x5121#16 = .unsupported .family5 := by decide

/-- A fault with a recorded word, and one without. -/
theorem test_meets_AFaultIsPreciseAndFatal :
    (∃ t, (prog 0x00EE []).engineStep = .next t ∧
      t.run = .halted (.fault .stackUnderflow 0x200#16 (some 0x00EE#16)) ∧ ∃ u, step t = .next u) ∧
    (∃ t, { State.reset with pc := 0#16 }.engineStep = .next t ∧
      t.run = .halted (.fault .illegalAddress 0#16 none)) := ⟨⟨_, rfl, rfl, _, rfl⟩, _, rfl, rfl⟩

theorem test_meets_HaltedIsFinal : stopped.run = .halted .stopped ∧ stopped.nextTurn = .engine ∧
    { stopped with turns := [.tick] }.nextTurn = .tick ∧ ∃ t, step stopped = .next t := ⟨rfl, rfl, rfl, _, rfl⟩

theorem test_meets_ARunEndsOnlyByTheStopCheckOrAFault :
    (∃ t, step { State.reset with stop := true } = .next t ∧ t.run ≠ .running) ∧
    (∃ t, step State.reset = .next t ∧ t.run ≠ .running) :=
  ⟨⟨_, rfl, by decide⟩, _, rfl, by decide⟩

theorem test_meets_TickCountsBothTimersDown : { State.reset with turns := [.tick] }.nextTurn = .tick ∧
    State.reset.run = .running ∧ { stopped with turns := [.tick] }.nextTurn = .tick ∧
    stopped.run = .halted .stopped := ⟨rfl, rfl, rfl, rfl⟩

/-- One tick of a timer at 1 and of a timer at 2. -/
theorem test_meets_ManyTicksReachZeroAndStay : State.reset.run = .running ∧ 0 < 1 ∧
    ({ State.reset with ST := 1 }.ticks 1).sound = false ∧ ({ State.reset with ST := 2 }.ticks 1).sound = true := by
  decide

theorem test_meets_TimersAreWrittenOnlyByTheirInstructionsAndTicks :
    (∃ t, step (prog 0xF415 [(4, 5)]) = .next t ∧ t.DT ≠ 0) ∧ (∃ t, step (prog 0xF418 [(4, 5)]) = .next t ∧ t.ST ≠ 0) ∧
    (∃ t, step { State.reset with ST := 2, turns := [.tick] } = .next t ∧ t.ST ≠ 2 ∧ t.sound ≠ false) :=
  ⟨⟨_, rfl, by decide⟩, ⟨_, rfl, by decide⟩, _, rfl, by decide⟩

/-- No row and fifteen rows. -/
theorem test_meets_DrwXorsTheWrappedSpriteAndReportsCollision : 0 ≤ 15 ∧ 15 ≤ 15 ∧
    { State.reset with FB := FrameBuffer.toggle FrameBuffer.blank 0 0 }.spriteLit 0 0 15 0 0 = true ∧
    FrameBuffer.cell (FrameBuffer.toggle FrameBuffer.blank 0 0) 0 0 = true := by decide

theorem test_meets_FrameBufferIsWrittenOnlyByClsAndDrw :
    (∃ t, step (prog 0xD011 []) = .next t ∧ t.FB ≠ FrameBuffer.blank) ∧
    (∃ t, step (prog 0x00E0 []) = .next t ∧ t.frames ≠ []) :=
  ⟨⟨_, rfl, by decide⟩, _, rfl, by decide⟩

/-- `sp` at both ends. -/
theorem test_meets_RetReturnsTwoBytesPastTheCall :
    ({ State.reset with sp := 1 }.sp ≠ 0 ∧ { State.reset with sp := 1 }.stack[0]? = some 0#16) ∧
    ({ State.reset with sp := 16 }.sp ≠ 0 ∧ { State.reset with sp := 16 }.stack[15]? = some 0#16) := by decide

theorem test_meets_CallPushesItsOwnAddressAndJumps :
    State.reset.stack.length = State.reset.params.stackCapacity ∧ State.reset.sp < State.reset.params.stackCapacity ∧
    { State.reset with sp := 15 }.sp < State.reset.params.stackCapacity ∧ 0 ≠ 15 := by decide

theorem test_meets_FullStackFaultsCallAndEmptyStackFaultsRet :
    { State.reset with sp := 16 }.sp = State.reset.params.stackCapacity ∧ State.reset.sp = 0 := by decide

theorem test_meets_ReturnUndoesTheCall :
    State.reset.stack.length = State.reset.params.stackCapacity ∧ State.reset.sp < State.reset.params.stackCapacity ∧
    ∃ t, exec (.call 0x555#12) State.reset = .next t ∧ { t with pc := 0x777#16 }.stack = t.stack ∧
      { t with pc := 0x777#16 }.sp = t.sp := ⟨by decide, by decide, _, rfl, rfl, rfl⟩

theorem test_meets_JpSetsPc : State.reset.run = .running ∧ State.reset.stop = false ∧
    (0x1FF#12).toNat < 0x200 ∧ (0xFFF#12).toNat = 0xFFF := by decide

/-- Both outcomes of both conditions. -/
theorem test_meets_SkipsCompareARegisterWithAnImmediate :
    ((prog 0x3342 [(3, 0x42)]).getV 3).toNat = (0x42#8).toNat ∧
    ((prog 0x3343 [(3, 0x42)]).getV 3).toNat ≠ (0x43#8).toNat := by decide

theorem test_meets_SkipsCompareTwoRegisters : (1#4 : BitVec 4) ≠ 0 ∧ (15#4 : BitVec 4) ≠ 0 ∧
    ((prog 0x5120 [(1, 7), (2, 7)]).getV 1).toNat = ((prog 0x5120 [(1, 7), (2, 7)]).getV 2).toNat := by decide

/-- The sums 0x1FF, 0xFFF and 0x10FE leave the range. -/
theorem test_meets_JpV0AddsV0Unmasked : State.reset.run = .running ∧ State.reset.stop = false ∧
    ¬(0x200 ≤ (0x1FF#12).toNat + (State.reset.getV 0).toNat) ∧
    ¬((0xF00#12).toNat + ({ State.reset with V := regs [(0, 0xFF)] }.getV 0).toNat ≤ 0xFFE) ∧
    ¬((0xFFF#12).toNat + ({ State.reset with V := regs [(0, 0xFF)] }.getV 0).toNat ≤ 0xFFE) := by decide

theorem test_meets_IndexAndStackAreWrittenOnlyByTheirInstructions :
    (∃ t, step (prog 0xA300 []) = .next t ∧ t.I ≠ 0) ∧
    (∃ t, step (prog 0x2300 []) = .next t ∧ t.stack ≠ State.reset.stack ∧ t.sp ≠ 0) :=
  ⟨⟨_, rfl, by decide⟩, _, rfl, by decide⟩

/-- The flag clauses of the arithmetic statements: a destination that is not VF. -/
theorem test_meets_flag_clauses : (0 : Reg) ≠ VF ∧ (14 : Reg) ≠ VF := by decide

/-- Both values of SHIFT_SOURCE. -/
theorem test_meets_ShiftsMoveOneBitAndKeepItInVF :
    (1 : Reg) = (if State.reset.params.shiftSource = .x then 1 else 2) ∧
    (2 : Reg) = (if ({ State.reset with params := { Params.reference with shiftSource := .y } } : State).params.shiftSource
      = .x then 1 else 2) := by decide

theorem test_meets_RndMasksOneDrawnByte :
    ({ State.reset with rand := [0xAB#8, 0xCD#8] } : State).rand = 0xAB#8 :: [0xCD#8] := rfl

/-- All sixteen registers, and one. -/
theorem test_meets_StoreRegsStoresThroughI : (15 : Reg) ≤ 15 ∧ (0 : Reg) ≤ 15 ∧ (0 : Reg) ≤ 0 := by decide
theorem test_meets_LoadRegsLoadsThroughI : (15 : Reg) ≤ 15 ∧ (0 : Reg) ≤ 15 ∧ (0 : Reg) ≤ 0 := by decide

theorem test_meets_MemoryIsWrittenOnlyByStores : ∃ t, step { prog 0xFA33 [(0xA, 0x7B)] with I := 0x300#16 } = .next t ∧
    t.readByte 0x300 ≠ { prog 0xFA33 [(0xA, 0x7B)] with I := 0x300#16 }.readByte 0x300 := ⟨_, rfl, by decide⟩

/-- Both instructions, and bytes at both ends of memory: `Fx55` at 0xFFF wraps to 0x000, `Fx33` reaches 0xFFF. -/
theorem test_meets_AStoreIsSeenByTheNextFetch :
    ([0xAA#8, 0xBB#8] = (List.range ((1 : Reg).val + 1)).map fun k =>
      ({ prog 0xF155 [(0, 0xAA), (1, 0xBB)] with I := 0xFFF#16 } : State).getV (Fin.ofNat 16 k)) ∧
    ([1#8, 2#8, 3#8].map BitVec.toNat = [((prog 0xFA33 [(0xA, 0x7B)]).getV 0xA).toNat / 100,
      ((prog 0xFA33 [(0xA, 0x7B)]).getV 0xA).toNat / 10 % 10, ((prog 0xFA33 [(0xA, 0x7B)]).getV 0xA).toNat % 10]) ∧
    (0xFFF = (0xFFF + 0) % 4096 ∧ 0x000 = (0xFFF + 1) % 4096 ∧ 0xFFF = (0xFFD + 2) % 4096) ∧
    (State.reset.run = .running ∧ State.reset.stop = false ∧ fetchable State.reset.pc ∧
      State.reset.pc.toNat = (0x1FF + 1) % 4096 ∧ State.reset.pc.toNat + 1 = (0x201 + 0) % 4096) := by decide

/-- MM14: the stored word is the one fetched next. -/
theorem test_store_then_fetch : is (step { prog 0xF155 [(0, 0x12), (1, 0x02)] with I := 0x202#16 }) (fun t =>
    decide (t.fetchWord = 0x1202#16 ∧ t.pc = 0x202#16)) := by decide

/-- A key source's turn, in a running and in a halted core, and turns that are none. -/
theorem test_meets_TheKeySourceSetsTheMatrixAndNothingElseDoes :
    ({ State.reset with turns := [.setKeys (pressed [0, 15])] } : State).nextTurn = .setKeys (pressed [0, 15]) ∧
    ({ stopped with turns := [.setKeys (pressed [3])] } : State).nextTurn = .setKeys (pressed [3]) ∧
    (∀ keys, State.reset.nextTurn ≠ .setKeys keys) ∧ ∃ t, step State.reset = .next t :=
  ⟨rfl, rfl, fun _ => nofun, _, rfl⟩

/-- The codes 0 and 0xF. -/
theorem test_meets_KeySkipsFollowTheMatrix : ((prog 0 []).getV 5).toNat = (0 : Reg).val ∧
    ((prog 0 [(5, 0xF)]).getV 5).toNat = (15 : Reg).val := by decide

theorem test_meets_KeyCodeAboveFFaults : 0xF < ((prog 0 [(5, 0x10)]).getV 5).toNat ∧
    0xF < ((prog 0 [(5, 0xFF)]).getV 5).toNat := by decide

/-- The lowest key 0, the lowest key 15, none. -/
theorem test_meets_WaitForKeyTakesTheLowestOrHolds :
    ((pressed [0, 3]).get 0 = true ∧ ∀ j : Reg, j < 0 → (pressed [0, 3]).get j = false) ∧
    ((pressed [15]).get 15 = true ∧ ∀ j : Reg, j < 15 → (pressed [15]).get j = false) ∧
    (∀ k : Reg, State.reset.keys.get k = false) := by decide

theorem test_meets_timer_writes : State.reset.run = .running := rfl

theorem test_meets_KeysAndSoundTimerAreReadOnlyWhereTheSpecSays :
    (∀ x, Instr.cls ≠ .skp x ∧ Instr.cls ≠ .sknp x ∧ Instr.cls ≠ .ldVxK x) ∧ ∀ x, Instr.ldVxDt x ≠ .ldStVx x :=
  ⟨fun _ => ⟨nofun, nofun, nofun⟩, fun _ => nofun⟩

end Sys2Proof.Machine.Tests
end

section
/-!
PROOFS. The control transfers of 41_control_flow.md: what the decoder reads from a word laid out with an address or with a
register and a byte, the fault of an illegal `pc` at the next fetch, then the statements about jumps and immediate skips.
-/

namespace Sys2Proof

/-! ### Decoding a word from its layout (30_encoding.md R81, R84) -/

@[simp] theorem opField_or_nnn (w : Word) (nnn : Imm12) : opField (w ||| nnn.setWidth 16) = opField w := by
  simp [opField, field_or, op_nnn]

theorem nnnField_or_nnn {w : Word} (nnn : Imm12) (h : nnnField w = 0) : nnnField (w ||| nnn.setWidth 16) = nnn := by
  rw [nnnField] at h ⊢
  simp [field_or, h, nnn_nnn]

@[simp] theorem opField_or_x_nn (w : Word) (x : Reg) (nn : Byte) :
    opField (w ||| placeX x ||| nn.setWidth 16) = opField w := by
  simp [opField, field_or, op_placeX, op_nn]

theorem xField_or_x_nn {w : Word} (x : Reg) (nn : Byte) (h : xField w = 0) :
    xField (w ||| placeX x ||| nn.setWidth 16) = x := by
  have h' : w.extractLsb' 8 4 = 0 := BitVec.eq_of_toFin_eq h
  simp [xField, field_or, h', x_placeX, x_nn]

theorem nnField_or_x_nn {w : Word} (x : Reg) (nn : Byte) (h : nnField w = 0) :
    nnField (w ||| placeX x ||| nn.setWidth 16) = nn := by
  rw [nnField] at h ⊢
  simp [field_or, h, nn_placeX, nn_nn]

theorem decodeWord_jp (nnn : Imm12) : decodeWord (0x1000#16 ||| nnn.setWidth 16) = .instr (.jp nnn) := by
  have hop : opField 0x1000#16 = 0x1#4 := by decide
  simp only [decodeWord, opField_or_nnn, hop]
  rw [nnnField_or_nnn nnn (by decide)]

theorem decodeWord_jpV0 (nnn : Imm12) : decodeWord (0xB000#16 ||| nnn.setWidth 16) = .instr (.jpV0 nnn) := by
  have hop : opField 0xB000#16 = 0xB#4 := by decide
  simp only [decodeWord, opField_or_nnn, hop]
  rw [nnnField_or_nnn nnn (by decide)]

theorem decodeWord_seImm (x : Reg) (nn : Byte) :
    decodeWord (0x3000#16 ||| placeX x ||| nn.setWidth 16) = .instr (.seImm x nn) := by
  have hop : opField 0x3000#16 = 0x3#4 := by decide
  simp only [decodeWord, opField_or_x_nn, hop]
  rw [xField_or_x_nn x nn (by decide), nnField_or_x_nn x nn (by decide)]

theorem decodeWord_sneImm (x : Reg) (nn : Byte) :
    decodeWord (0x4000#16 ||| placeX x ||| nn.setWidth 16) = .instr (.sneImm x nn) := by
  have hop : opField 0x4000#16 = 0x4#4 := by decide
  simp only [decodeWord, opField_or_x_nn, hop]
  rw [xField_or_x_nn x nn (by decide), nnField_or_x_nn x nn (by decide)]

end Sys2Proof

namespace Sys2Proof.Machine

/-! ### Targets (41_control_flow.md R122, R123, R132) -/

@[simp] theorem addrOf_toNat (nnn : Imm12) : (addrOf nnn).toNat = nnn.toNat :=
  BitVec.toNat_setWidth_of_le (by decide)

@[simp] theorem wordOf_toNat (b : Byte) : (wordOf b).toNat = b.toNat :=
  BitVec.toNat_setWidth_of_le (by decide)

/-- The computed target never wraps: it is at most 0x10FE. -/
theorem addrOf_add_wordOf_toNat (nnn : Imm12) (b : Byte) : (addrOf nnn + wordOf b).toNat = nnn.toNat + b.toNat := by
  have hn := nnn.isLt
  have hb := b.isLt
  rw [BitVec.toNat_add, addrOf_toNat, wordOf_toNat, Nat.mod_eq_of_lt (by omega)]

/-- A running core with no stop pending and an illegal `pc` faults at the fetch (60_exceptions.md R222). -/
theorem State.illegalAtFetch_of_not_fetchable {s : State} (hr : s.run = .running) (hs : s.stop = false)
    (hp : ¬fetchable s.pc) : s.IllegalAtFetch := by
  have hp' : s.pcInRange = false := Bool.eq_false_iff.2 fun h => hp (s.pcInRange_iff.1 h)
  simp [State.IllegalAtFetch, State.engineStep, hr, hs, hp', State.raiseFault]

/-- A jump to an address no instruction can be fetched from faults at the next fetch (41_control_flow.md R123). -/
theorem State.setPc_illegalAtFetch {s : State} {a : Word} (hr : s.run = .running) (hs : s.stop = false)
    (ha : ¬fetchable a) : (s.setPc a).IllegalAtFetch :=
  State.illegalAtFetch_of_not_fetchable hr hs ha

/-! ### The meanings -/

theorem exec_jp (nnn : Imm12) (s : State) : exec (.jp nnn) s = .next (s.setPc (addrOf nnn)) := rfl

theorem exec_jpV0 (nnn : Imm12) (s : State) :
    exec (.jpV0 nnn) s = .next (s.setPc (addrOf nnn + wordOf (s.getV 0))) := rfl

theorem exec_seImm (x : Reg) (nn : Byte) (s : State) :
    exec (.seImm x nn) s = .next (s.skipIf (decide (s.getV x = nn))) := rfl

theorem exec_sneImm (x : Reg) (nn : Byte) (s : State) :
    exec (.sneImm x nn) s = .next (s.skipIf (decide (s.getV x ≠ nn))) := rfl

/-! ### The statements -/

/-- Settles O31: the jump is one write of `pc`, and an illegal target is not fetchable. -/
theorem jpSetsPc : Obligations.JpSetsPc := by
  unfold Obligations.JpSetsPc
  intro nnn s
  refine ⟨decodeWord_jp nnn, _, exec_jp nnn s, addrOf_toNat nnn, s.frame_setPc _, fun hr hs hbad => ?_⟩
  refine State.setPc_illegalAtFetch hr hs ?_
  rw [fetchable, addrOf_toNat]
  omega

/-- Settles O32: both skips are `skipIf` on the comparison of two bytes, which is that of their values. -/
theorem skipsCompareARegisterWithAnImmediate : Obligations.SkipsCompareARegisterWithAnImmediate := by
  unfold Obligations.SkipsCompareARegisterWithAnImmediate
  intro x nn s
  refine ⟨⟨decodeWord_seImm x nn, _, exec_seImm x nn s, ?_, s.frame_skipIf _⟩,
    ⟨decodeWord_sneImm x nn, _, exec_sneImm x nn s, ?_, s.frame_skipIf _⟩⟩
  · simp [BitVec.toNat_inj]
  · simp [BitVec.toNat_inj]

/-- Settles O34: the sum does not wrap, so `pc` is the sum itself, and it is fetchable only inside 0x200..0xFFE. -/
theorem jpV0AddsV0Unmasked : Obligations.JpV0AddsV0Unmasked := by
  unfold Obligations.JpV0AddsV0Unmasked
  intro nnn s
  have hsum := addrOf_add_wordOf_toNat nnn (s.getV 0)
  refine ⟨decodeWord_jpV0 nnn, _, exec_jpV0 nnn s, hsum, s.frame_setPc _, fun hr hs hbad => ?_⟩
  refine State.setPc_illegalAtFetch hr hs ?_
  rwa [fetchable, hsum]

end Sys2Proof.Machine
end

section
/-!
PROOFS. The plain register writes of 42_alu.md: what the decoder reads from a word laid out with two registers, then the
statements about loading a byte, adding a byte and copying a register.
-/

namespace Sys2Proof

/-! ### Decoding a word laid out with two registers (30_encoding.md R81, R84) -/

@[simp] theorem opField_or_x_y (w : Word) (x y : Reg) : opField (w ||| placeX x ||| placeY y) = opField w := by
  simp [opField, field_or, op_placeX, op_placeY]

@[simp] theorem nField_or_x_y (w : Word) (x y : Reg) : nField (w ||| placeX x ||| placeY y) = nField w := by
  simp [nField, field_or, n_placeX, n_placeY]

theorem xField_or_x_y {w : Word} (x y : Reg) (h : xField w = 0) : xField (w ||| placeX x ||| placeY y) = x := by
  have h' : w.extractLsb' 8 4 = 0 := BitVec.eq_of_toFin_eq h
  simp [xField, field_or, h', x_placeX, x_placeY]

theorem yField_or_x_y {w : Word} (x y : Reg) (h : yField w = 0) : yField (w ||| placeX x ||| placeY y) = y := by
  have h' : w.extractLsb' 4 4 = 0 := BitVec.eq_of_toFin_eq h
  simp [yField, field_or, h', y_placeX, y_placeY]

theorem decodeWord_ldImm (x : Reg) (nn : Byte) :
    decodeWord (0x6000#16 ||| placeX x ||| nn.setWidth 16) = .instr (.ldImm x nn) := by
  have hop : opField 0x6000#16 = 0x6#4 := by decide
  simp only [decodeWord, opField_or_x_nn, hop]
  rw [xField_or_x_nn x nn (by decide), nnField_or_x_nn x nn (by decide)]

theorem decodeWord_addImm (x : Reg) (nn : Byte) :
    decodeWord (0x7000#16 ||| placeX x ||| nn.setWidth 16) = .instr (.addImm x nn) := by
  have hop : opField 0x7000#16 = 0x7#4 := by decide
  simp only [decodeWord, opField_or_x_nn, hop]
  rw [xField_or_x_nn x nn (by decide), nnField_or_x_nn x nn (by decide)]

theorem decodeWord_ldReg (x y : Reg) : decodeWord (0x8000#16 ||| placeX x ||| placeY y) = .instr (.ldReg x y) := by
  have hop : opField 0x8000#16 = 0x8#4 := by decide
  have hn : nField 0x8000#16 = 0x0#4 := by decide
  simp only [decodeWord, decodeFamily8, opField_or_x_y, nField_or_x_y, hop, hn]
  rw [xField_or_x_y x y (by decide), yField_or_x_y x y (by decide)]

end Sys2Proof

namespace Sys2Proof.Machine

/-! ### The meanings -/

theorem exec_ldImm (x : Reg) (nn : Byte) (s : State) : exec (.ldImm x nn) s = .next (s.setV x nn).advance := rfl

theorem exec_addImm (x : Reg) (nn : Byte) (s : State) :
    exec (.addImm x nn) s = .next (s.setV x (s.getV x + nn)).advance := rfl

theorem exec_ldReg (x y : Reg) (s : State) : exec (.ldReg x y) s = .next (s.setV x (s.getV y)).advance := rfl

/-- What every instruction that ends by writing one register does to that register (42_alu.md R154 to R156). -/
theorem State.getV_setV_advance (s : State) (x : Reg) (b : Byte) : (s.setV x b).advance.getV x = b := by
  rw [State.advance_getV, State.getV_setV_same]

/-! ### The statements -/

/-- Settles O36: the meaning is one write of `nn` to `V[x]`. -/
theorem ldImmLoadsTheByte : Obligations.LdImmLoadsTheByte := by
  unfold Obligations.LdImmLoadsTheByte
  intro x nn s
  exact ⟨decodeWord_ldImm x nn, _, exec_ldImm x nn s, s.getV_setV_advance x nn, rfl, s.frame_setV x nn⟩

/-- Settles O37: the meaning is one write of the byte sum to `V[x]`, and a sum of bytes is the sum modulo 256. -/
theorem addImmWrapsWithoutFlag : Obligations.AddImmWrapsWithoutFlag := by
  unfold Obligations.AddImmWrapsWithoutFlag
  intro x nn s
  refine ⟨decodeWord_addImm x nn, _, exec_addImm x nn s, ?_, rfl, s.frame_setV x _⟩
  rw [State.getV_setV_advance, BitVec.toNat_add]

/-- Settles O38: the meaning is one write of the old `V[y]` to `V[x]`. -/
theorem ldRegCopiesTheRegister : Obligations.LdRegCopiesTheRegister := by
  unfold Obligations.LdRegCopiesTheRegister
  intro x y s
  exact ⟨decodeWord_ldReg x y, _, exec_ldReg x y s, s.getV_setV_advance x _, rfl, s.frame_setV x _⟩

end Sys2Proof.Machine
end

section
/-!
PROOFS. The writes of `I` of 43_index_memory.md: what the decoder reads from a word of family F laid out with one register,
the values the three instructions give `I`, then the statements about loading an address, adding a register and pointing at
a glyph.
-/

namespace Sys2Proof

/-! ### Decoding a word laid out with one register (30_encoding.md R81, R84) -/

@[simp] theorem opField_or_x (w : Word) (x : Reg) : opField (w ||| placeX x) = opField w := by
  simp [opField, field_or, op_placeX]

@[simp] theorem nnField_or_x (w : Word) (x : Reg) : nnField (w ||| placeX x) = nnField w := by
  simp [nnField, field_or, nn_placeX]

theorem xField_or_x {w : Word} (x : Reg) (h : xField w = 0) : xField (w ||| placeX x) = x := by
  have h' : w.extractLsb' 8 4 = 0 := BitVec.eq_of_toFin_eq h
  simp [xField, field_or, h', x_placeX]

theorem decodeWord_ldI (nnn : Imm12) : decodeWord (0xA000#16 ||| nnn.setWidth 16) = .instr (.ldI nnn) := by
  have hop : opField 0xA000#16 = 0xA#4 := by decide
  simp only [decodeWord, opField_or_nnn, hop]
  rw [nnnField_or_nnn nnn (by decide)]

/-- Family F is the decoder's last case (30_encoding.md R84). -/
theorem decodeWord_familyF {w : Word} (h : opField w = 0xF#4) : decodeWord w = decodeFamilyF w := by
  rw [decodeWord, h]
  rfl

theorem decodeWord_addI (x : Reg) : decodeWord (0xF01E#16 ||| placeX x) = .instr (.addI x) := by
  have hop : opField 0xF01E#16 = 0xF#4 := by decide
  have hnn : nnField 0xF01E#16 = 0x1E#8 := by decide
  rw [decodeWord_familyF (by rw [opField_or_x, hop])]
  simp only [decodeFamilyF, nnField_or_x, hnn]
  rw [xField_or_x x (by decide)]

theorem decodeWord_ldF (x : Reg) : decodeWord (0xF029#16 ||| placeX x) = .instr (.ldF x) := by
  have hop : opField 0xF029#16 = 0xF#4 := by decide
  have hnn : nnField 0xF029#16 = 0x29#8 := by decide
  rw [decodeWord_familyF (by rw [opField_or_x, hop])]
  simp only [decodeFamilyF, nnField_or_x, hnn]
  rw [xField_or_x x (by decide)]

end Sys2Proof

namespace Sys2Proof.Machine

/-! ### The meanings -/

theorem exec_ldI (nnn : Imm12) (s : State) : exec (.ldI nnn) s = .next (s.setI (addrOf nnn)).advance := rfl

theorem exec_addI (x : Reg) (s : State) :
    exec (.addI x) s = .next (s.setI ((s.I + wordOf (s.getV x)) &&& 0xFFF#16)).advance := rfl

theorem exec_ldF (x : Reg) (s : State) : exec (.ldF x) s = .next (s.setI (wordOf (s.getV x) * 5)).advance := rfl

/-! ### The values given to `I` (43_index_memory.md R182, R184) -/

/-- The masked sum with a byte is the effective address that many bytes past the base (20_memory.md R62). -/
theorem add_wordOf_masked_toNat (base : Word) (b : Byte) :
    ((base + wordOf b) &&& 0xFFF#16).toNat = (base.toNat + b.toNat) % 4096 := by
  rw [← effAddr_eq, effAddr, BitVec.ofNat_toNat, wordOf]

/-- Five times a byte never wraps a word: it is at most 1275 (decimal). -/
theorem wordOf_mul_five_toNat (b : Byte) : (wordOf b * 5).toNat = b.toNat * 5 := by
  have hb := b.isLt
  rw [BitVec.toNat_mul, wordOf_toNat]
  exact Nat.mod_eq_of_lt (by omega : b.toNat * 5 < 2 ^ 16)

/-! ### The statements -/

/-- Settles O45: the meaning is one write of `nnn`, widened without change, to `I`. -/
theorem ldILoadsTheAddress : Obligations.LdILoadsTheAddress := by
  unfold Obligations.LdILoadsTheAddress
  intro nnn s
  exact ⟨decodeWord_ldI nnn, _, exec_ldI nnn s, addrOf_toNat nnn, rfl, s.frame_setI _⟩

/-- Settles O46: the meaning is one write to `I`, and the mask keeps the sum modulo 4096. -/
theorem addIWrapsAtTwelveBits : Obligations.AddIWrapsAtTwelveBits := by
  unfold Obligations.AddIWrapsAtTwelveBits
  intro x s
  exact ⟨decodeWord_addI x, _, exec_addI x s, add_wordOf_masked_toNat s.I (s.getV x), rfl, s.frame_setI _⟩

/-- Settles O47: the meaning is one write to `I`, and five times a byte fits in 16 bits. -/
theorem ldFPointsAtTheGlyph : Obligations.LdFPointsAtTheGlyph := by
  unfold Obligations.LdFPointsAtTheGlyph
  intro x s
  exact ⟨decodeWord_ldF x, _, exec_ldF x s, wordOf_mul_five_toNat (s.getV x), rfl, s.frame_setI _⟩

end Sys2Proof.Machine
end

section
/-!
PROOFS. The delay timer of 44_keys_timers.md R206: what the decoder reads from its word, how a run of ticks counts a running
core's delay timer down, then the statement about setting it.
-/

namespace Sys2Proof

theorem decodeWord_ldDtVx (x : Reg) : decodeWord (0xF015#16 ||| placeX x) = .instr (.ldDtVx x) := by
  have hop : opField 0xF015#16 = 0xF#4 := by decide
  have hnn : nnField 0xF015#16 = 0x15#8 := by decide
  rw [decodeWord_familyF (by rw [opField_or_x, hop])]
  simp only [decodeFamilyF, nnField_or_x, hnn]
  rw [xField_or_x x (by decide)]

end Sys2Proof

namespace Sys2Proof.Machine

theorem exec_ldDtVx (x : Reg) (s : State) : exec (.ldDtVx x) s = .next (s.setDT (s.getV x)).advance := rfl

/-! ### Ticks of a running core (60_exceptions.md R236) -/

/-- A tick neither ends a run nor starts one. -/
@[simp] theorem State.tick_run (s : State) : s.tick.run = s.run := by
  cases h : s.run with
  | running => rw [State.tick_running s h]; exact h
  | halted r => rw [State.tick_halted s h]; exact h

theorem State.tick_DT_toNat {s : State} (hr : s.run = .running) : s.tick.DT.toNat = s.DT.toNat - 1 := by
  rw [State.tick_running s hr]
  exact countDown_toNat s.DT

/-- The core still runs after a tick, so every one of the `n` ticks takes 1, stopping at 0. -/
theorem State.ticks_DT_toNat {s : State} (hr : s.run = .running) (n : Nat) :
    (s.ticks n).DT.toNat = s.DT.toNat - n := by
  induction n generalizing s with
  | zero => rfl
  | succ n ih =>
    have hr' : s.tick.run = .running := by rw [State.tick_run, hr]
    rw [State.ticks, ih hr', State.tick_DT_toNat hr]
    omega

/-! ### The statement -/

/-- Settles O57: the meaning is one write of `V[x]` to `DT`, which leaves the core running, so the ticks after it count
from `V[x]`. -/
theorem ldDtVxSetsTheDelayTimer : Obligations.LdDtVxSetsTheDelayTimer := by
  unfold Obligations.LdDtVxSetsTheDelayTimer
  intro x s
  refine ⟨decodeWord_ldDtVx x, _, exec_ldDtVx x s, rfl, rfl, s.frame_setDT _, fun hr n => ?_⟩
  have hr' : (s.setDT (s.getV x)).advance.run = .running := hr
  rw [State.ticks_DT_toNat hr', State.advance_DT, State.setDT_DT]

end Sys2Proof.Machine
end

section
/-!
PROOFS. The checks an engine step of a running core makes before it executes anything (60_exceptions.md R221, R222, R224):
the stop check, the range of `pc`, the decoding of the fetched word; how executing an instruction can end a run; then the
statements about the three checks.
-/

namespace Sys2Proof.Machine

variable {s t : State}

/-! ### The checks of an engine step, in the priority of 60_exceptions.md R229 -/

theorem State.engineStep_stop (hr : s.run = .running) (hs : s.stop = true) : s.engineStep = .next s.haltStopped := by
  simp [State.engineStep, hr, hs]

theorem State.runWord_unsupported {w : Word} {why : Unsupported} (hd : decodeWord w = .unsupported why) :
    s.runWord w = .next (s.raiseFault .unsupportedOpcode (some w)) := by
  simp [State.runWord, hd]

theorem State.runWord_instr {w : Word} {i : Instr} (hd : decodeWord w = .instr i) : s.runWord w = exec i s := by
  simp [State.runWord, hd]

/-! ### How a run ends -/

/-- Executing an instruction leaves the run status as it was, or raises one of the faults an instruction can raise
(60_exceptions.md R225). -/
theorem exec_run {i : Instr} (h : exec i s = .next t) :
    t.run = s.run ∨ ∃ kind p w, kind ≠ .illegalAddress ∧ t.run = .halted (.fault kind p w) := by
  obtain hf | ⟨kind, hk, -, rfl⟩ := exec_next h
  · exact .inl hf.status.1
  · exact .inr ⟨kind, s.pc, some (encode i), hk, rfl⟩

/-- Executing an instruction of a running core never halts it as stopped. -/
theorem exec_run_ne_stopped {i : Instr} (hr : s.run = .running) (h : exec i s = .next t) :
    t.run ≠ .halted .stopped := by
  obtain h' | ⟨kind, p, w, -, h'⟩ := exec_run h
  · simp [h', hr]
  · simp [h']

/-- Of a running core only the stop check makes a stopped one: every other step executes an instruction, raises a fault or
leaves the core running. -/
theorem stop_of_step_stopped (hr : s.run = .running) (h : step s = .next t) (ht : t.run = .halted .stopped) :
    s.stop = true ∧ s.nextTurn = .engine := by
  obtain ⟨i, -, he⟩ | ⟨hn, -, hend⟩ | ⟨-, hne, -⟩ | ⟨-, rfl⟩ | ⟨keys, -, rfl⟩ | ⟨-, rfl⟩ := step_next h
  · have hr' : s.afterTurn.run = .running := hr
    exact absurd ht (exec_run_ne_stopped hr' he)
  · obtain ⟨hs, -⟩ | ⟨-, -, rfl⟩ | ⟨-, -, rfl⟩ := hend
    · exact ⟨hs, hn⟩
    · simp at ht
    · simp at ht
  · exact absurd hr hne
  · simp [hr] at ht
  · simp [hr] at ht
  · simp [hr] at ht

/-- An engine step that fetches never raises `IllegalAddress` (60_exceptions.md R223). -/
theorem State.engineStep_ne_illegalAddress (hr : s.run = .running) (hs : s.stop = false) (hp : fetchable s.pc)
    (h : s.engineStep = .next t) (p : Word) (w : Option Word) : t.run ≠ .halted (.fault .illegalAddress p w) := by
  rw [State.engineStep_runWord s hr hs hp] at h
  cases hd : decodeWord s.fetchWord with
  | unsupported why =>
    rw [State.runWord_unsupported hd] at h
    cases h
    simp
  | instr i =>
    rw [State.runWord_instr hd] at h
    obtain h' | ⟨kind, q, v, hk, h'⟩ := exec_run h
    · simp [h', hr]
    · simp [h', hk]

/-! ### The statements -/

/-- Settles O14: the stop check precedes every other, a request sets the signal it reads, and no other step ends in a
stopped core. -/
theorem stopIsCheckedBeforeAnythingElse : Obligations.StopIsCheckedBeforeAnythingElse := by
  unfold Obligations.StopIsCheckedBeforeAnythingElse
  intro s hr
  exact ⟨State.engineStep_stop hr, State.engineStep_stop (s := s.requestStop) hr rfl,
    fun t => stop_of_step_stopped hr⟩

/-- Settles O16: outside the range the fetch raises the fault, and inside it the step executes the fetched word, which
raises others only. -/
theorem pcOutOfRangeFaultsAtTheFetch : Obligations.PcOutOfRangeFaultsAtTheFetch := by
  unfold Obligations.PcOutOfRangeFaultsAtTheFetch
  intro s hr hs
  exact ⟨State.illegalAtFetch_of_not_fetchable hr hs,
    fun hp t p w h => State.engineStep_ne_illegalAddress hr hs hp h p w⟩

/-- Settles O17: the step runs the big-endian word at `pc`, and an unsupported word raises its fault in place of an
execution. -/
theorem unsupportedWordFaultsBeforeAnyWrite : Obligations.UnsupportedWordFaultsBeforeAnyWrite := by
  unfold Obligations.UnsupportedWordFaultsBeforeAnyWrite
  intro s w why hr hs hp hw hd
  have hfetch : s.fetchWord = w := hw.symm
  rw [State.engineStep_runWord s hr hs hp, hfetch, State.runWord_unsupported hd]
  rfl

end Sys2Proof.Machine
end

section
/-!
PROOFS. The decoder both ways: the encoding of every well-formed instruction decodes to it, a decoded word is the encoding of
its instruction, and which words are refused; then the statements about decoding and the opcode map.
-/

namespace Sys2Proof

/-! ### Fields of a word laid out with two registers and a low nibble (30_encoding.md R81) -/

@[simp] theorem opField_or_x_y_n (w : Word) (x y : Reg) (n : BitVec 4) :
    opField (w ||| placeX x ||| placeY y ||| n.setWidth 16) = opField w := by
  simp [opField, field_or, op_placeX, op_placeY, op_n]

theorem xField_or_x_y_n {w : Word} (x y : Reg) (n : BitVec 4) (h : xField w = 0) :
    xField (w ||| placeX x ||| placeY y ||| n.setWidth 16) = x := by
  have h' : w.extractLsb' 8 4 = 0 := BitVec.eq_of_toFin_eq h
  simp [xField, field_or, h', x_placeX, x_placeY, x_n]

theorem yField_or_x_y_n {w : Word} (x y : Reg) (n : BitVec 4) (h : yField w = 0) :
    yField (w ||| placeX x ||| placeY y ||| n.setWidth 16) = y := by
  have h' : w.extractLsb' 4 4 = 0 := BitVec.eq_of_toFin_eq h
  simp [yField, field_or, h', y_placeX, y_placeY, y_n]

theorem nField_or_x_y_n {w : Word} (x y : Reg) (n : BitVec 4) (h : nField w = 0) :
    nField (w ||| placeX x ||| placeY y ||| n.setWidth 16) = n := by
  rw [nField] at h ⊢
  simp [field_or, h, n_placeX, n_placeY, n_n]

/-! ### From the instruction to the word and back -/

theorem decodeWord_family8 {w : Word} (h : opField w = 0x8#4) : decodeWord w = decodeFamily8 w := by
  rw [decodeWord, h]
  rfl

/-- The word of a well-formed instruction decodes to it: the decoder reads the fields the layout placed, and the constant
part selects the branch (30_encoding.md R83, R84). One case per layout. -/
theorem decodeWord_encode {i : Instr} (h : i.wf = true) : decodeWord (encode i) = .instr i := by
  cases i
  case cls => decide
  case ret => decide
  case jp nnn | call nnn | ldI nnn | jpV0 nnn =>
    rw [encode, decodeWord, opField_or_nnn, nnnField_or_nnn nnn (by decide)]
    rfl
  case seImm x nn | sneImm x nn | ldImm x nn | addImm x nn | rnd x nn =>
    rw [encode, decodeWord, opField_or_x_nn, xField_or_x_nn x nn (by decide), nnField_or_x_nn x nn (by decide)]
    rfl
  case seReg x y | sneReg x y =>
    rw [encode, decodeWord, opField_or_x_y]
    simp only [decodeFamily5, decodeFamily9]
    rw [nField_or_x_y, xField_or_x_y x y (by decide), yField_or_x_y x y (by decide)]
    rfl
  case ldReg x y | orReg x y | andReg x y | xorReg x y | addReg x y | subReg x y | shrReg x y | subnReg x y |
      shlReg x y =>
    rw [encode, decodeWord_family8 (by rw [opField_or_x_y]; decide), decodeFamily8, nField_or_x_y,
      xField_or_x_y x y (by decide), yField_or_x_y x y (by decide)]
    rfl
  case drw x y n =>
    have hn : n < 2 ^ 4 := by simp [Instr.wf] at h; omega
    rw [encode, decodeWord, opField_or_x_y_n, xField_or_x_y_n x y _ (by decide), yField_or_x_y_n x y _ (by decide),
      nField_or_x_y_n x y _ (by decide), BitVec.toNat_ofNat, Nat.mod_eq_of_lt hn]
    rfl
  case skp x | sknp x =>
    rw [encode, decodeWord, opField_or_x]
    simp only [decodeFamilyE]
    rw [nnField_or_x, xField_or_x x (by decide)]
    rfl
  case ldVxDt x | ldVxK x | ldDtVx x | ldStVx x | addI x | ldF x | ldB x | storeRegs x | loadRegs x =>
    rw [encode, decodeWord_familyF (by rw [opField_or_x]; decide), decodeFamilyF, nnField_or_x,
      xField_or_x x (by decide)]
    rfl

/-! A word is its constant part and its operands, in the order the encoder writes them. -/

theorem word_or_right_comm (a b c : Word) : a ||| b ||| c = a ||| c ||| b := by ac_rfl

theorem word_eq_or_nnn {w base : Word} {op : BitVec 4} (h : opField w = op) (hb : op.setWidth 16 <<< 12 = base) :
    base ||| (nnnField w).setWidth 16 = w := by
  rw [← hb, ← h]; exact (word_of_op_nnn w).symm

theorem word_eq_or_x_nn {w base : Word} {op : BitVec 4} (h : opField w = op) (hb : op.setWidth 16 <<< 12 = base) :
    base ||| placeX (xField w) ||| (nnField w).setWidth 16 = w := by
  rw [← hb, ← h]; exact (word_of_op_x_nn w).symm

theorem word_eq_or_x {w base : Word} {op : BitVec 4} {nn : Byte} (h : opField w = op) (hnn : nnField w = nn)
    (hb : op.setWidth 16 <<< 12 ||| nn.setWidth 16 = base) : base ||| placeX (xField w) = w := by
  rw [← hb, word_or_right_comm, ← hnn]; exact word_eq_or_x_nn h rfl

theorem word_eq_or_x_y_n {w base : Word} {op : BitVec 4} (h : opField w = op) (hb : op.setWidth 16 <<< 12 = base) :
    base ||| placeX (xField w) ||| placeY (yField w) ||| (nField w).setWidth 16 = w := by
  rw [← hb, ← h]; exact (word_of_op_x_y_n w).symm

theorem word_eq_or_x_y {w base : Word} {op n : BitVec 4} (h : opField w = op) (hn : nField w = n)
    (hb : op.setWidth 16 <<< 12 ||| n.setWidth 16 = base) :
    base ||| placeX (xField w) ||| placeY (yField w) = w := by
  rw [← hb, word_or_right_comm _ (n.setWidth 16), word_or_right_comm _ (n.setWidth 16), ← hn]; exact word_eq_or_x_y_n h rfl

theorem encode_of_decodeFamily8 {w : Word} {i : Instr} (hop : opField w = 0x8#4) (h : decodeFamily8 w = .instr i) :
    encode i = w ∧ i.wf = true := by
  unfold decodeFamily8 at h
  split at h
  case h_10 => cases h
  all_goals
    next hn => cases h; exact ⟨word_eq_or_x_y hop hn (by decide), rfl⟩

theorem encode_of_decodeFamilyE {w : Word} {i : Instr} (hop : opField w = 0xE#4) (h : decodeFamilyE w = .instr i) :
    encode i = w ∧ i.wf = true := by
  unfold decodeFamilyE at h
  split at h
  case h_3 => cases h
  all_goals
    next hnn => cases h; exact ⟨word_eq_or_x hop hnn (by decide), rfl⟩

theorem encode_of_decodeFamilyF {w : Word} {i : Instr} (hop : opField w = 0xF#4) (h : decodeFamilyF w = .instr i) :
    encode i = w ∧ i.wf = true := by
  unfold decodeFamilyF at h
  split at h
  case h_10 => cases h
  all_goals
    next hnn => cases h; exact ⟨word_eq_or_x hop hnn (by decide), rfl⟩

/-- A word that decodes to an instruction is its encoding, and the instruction is well formed: the branch taken says what
the constant part is, and the decoder's fields are the operands. -/
theorem encode_of_decodeWord {w : Word} {i : Instr} (h : decodeWord w = .instr i) : encode i = w ∧ i.wf = true := by
  unfold decodeWord at h
  split at h
  case h_1 hop =>
    unfold decodeFamily0 at h
    split at h
    · next hw => cases h; exact ⟨hw.symm, rfl⟩
    · split at h
      · next hw => cases h; exact ⟨hw.symm, rfl⟩
      · cases h
  case h_2 hop | h_3 hop | h_11 hop | h_12 hop => cases h; exact ⟨word_eq_or_nnn hop (by decide), rfl⟩
  case h_4 hop | h_5 hop | h_7 hop | h_8 hop | h_13 hop => cases h; exact ⟨word_eq_or_x_nn hop (by decide), rfl⟩
  case h_6 hop =>
    unfold decodeFamily5 at h
    split at h
    · next hn => cases h; exact ⟨word_eq_or_x_y hop hn (by decide), rfl⟩
    · cases h
  case h_9 hop => exact encode_of_decodeFamily8 hop h
  case h_10 hop =>
    unfold decodeFamily9 at h
    split at h
    · next hn => cases h; exact ⟨word_eq_or_x_y hop hn (by decide), rfl⟩
    · cases h
  case h_14 hop =>
    cases h
    refine ⟨?_, decide_eq_true (by have := (nField w).isLt; omega)⟩
    rw [encode, BitVec.ofNat_toNat, BitVec.setWidth_eq]
    exact word_eq_or_x_y_n hop (by decide)
  case h_15 hop => exact encode_of_decodeFamilyE hop h
  case h_16 => exact encode_of_decodeFamilyF (by simp only [imp_false] at *; bv_omega) h

/-! ### The words the decoder refuses (30_encoding.md R86) -/

/-- Decoding is total: an instruction or a refusal, not both. -/
theorem unsupported_or_instr (w : Word) :
    (∃ why, decodeWord w = .unsupported why) ∨ ∃ i, decodeWord w = .instr i := by
  cases decodeWord w with
  | unsupported why => exact .inl ⟨why, rfl⟩
  | instr i => exact .inr ⟨i, rfl⟩

theorem decodeFamily0_unsupported_iff (w : Word) :
    (∃ why, decodeFamily0 w = .unsupported why) ↔ w ≠ 0x00E0#16 ∧ w ≠ 0x00EE#16 := by
  unfold decodeFamily0
  split
  · next hw => simp [hw]
  · next hw =>
    split
    · next hw' => simp [hw']
    · next hw' => simp [hw, hw']

theorem decodeFamily5_unsupported_iff (w : Word) :
    (∃ why, decodeFamily5 w = .unsupported why) ↔ nField w ≠ 0x0#4 := by
  unfold decodeFamily5
  split
  · next hn => simp [hn]
  · next hn => simp [hn]

theorem decodeFamily8_unsupported_iff (w : Word) :
    (∃ why, decodeFamily8 w = .unsupported why) ↔
      nField w ∈ [0x8#4, 0x9#4, 0xA#4, 0xB#4, 0xC#4, 0xD#4, 0xF#4] := by
  unfold decodeFamily8
  split
  case h_10 => simp only [imp_false] at *; simp; bv_omega
  all_goals
    next hn => simp [hn]

theorem decodeFamily9_unsupported_iff (w : Word) :
    (∃ why, decodeFamily9 w = .unsupported why) ↔ nField w ≠ 0x0#4 := by
  unfold decodeFamily9
  split
  · next hn => simp [hn]
  · next hn => simp [hn]

theorem decodeFamilyE_unsupported_iff (w : Word) :
    (∃ why, decodeFamilyE w = .unsupported why) ↔ nnField w ∉ [0x9E#8, 0xA1#8] := by
  unfold decodeFamilyE
  split
  case h_3 => simp_all
  all_goals
    next hn => simp [hn]

theorem decodeFamilyF_unsupported_iff (w : Word) :
    (∃ why, decodeFamilyF w = .unsupported why) ↔
      nnField w ∉ [0x07#8, 0x0A#8, 0x15#8, 0x18#8, 0x1E#8, 0x29#8, 0x33#8, 0x55#8, 0x65#8] := by
  unfold decodeFamilyF
  split
  case h_10 => simp_all
  all_goals
    next hn => simp [hn]

/-- The table of 30_encoding.md R86, in the decoder's fields. -/
theorem decodeWord_unsupported_iff (w : Word) :
    (∃ why, decodeWord w = .unsupported why) ↔
      (opField w = 0x0#4 ∧ w ≠ 0x00E0#16 ∧ w ≠ 0x00EE#16) ∨
      (opField w = 0x5#4 ∧ nField w ≠ 0x0#4) ∨
      (opField w = 0x8#4 ∧ nField w ∈ [0x8#4, 0x9#4, 0xA#4, 0xB#4, 0xC#4, 0xD#4, 0xF#4]) ∨
      (opField w = 0x9#4 ∧ nField w ≠ 0x0#4) ∨
      (opField w = 0xE#4 ∧ nnField w ∉ [0x9E#8, 0xA1#8]) ∨
      (opField w = 0xF#4 ∧
        nnField w ∉ [0x07#8, 0x0A#8, 0x15#8, 0x18#8, 0x1E#8, 0x29#8, 0x33#8, 0x55#8, 0x65#8]) := by
  unfold decodeWord
  split
  case h_1 hop => rw [decodeFamily0_unsupported_iff]; simp [hop]
  case h_6 hop => rw [decodeFamily5_unsupported_iff]; simp [hop]
  case h_9 hop => rw [decodeFamily8_unsupported_iff]; simp [hop]
  case h_10 hop => rw [decodeFamily9_unsupported_iff]; simp [hop]
  case h_15 hop => rw [decodeFamilyE_unsupported_iff]; simp [hop]
  case h_16 =>
    have hop : opField w = 0xF#4 := by simp only [imp_false] at *; bv_omega
    rw [decodeFamilyF_unsupported_iff]; simp [hop]
  all_goals
    next hop => simp [hop]

theorem opField_toNat (w : Word) : (opField w).toNat = w.toNat / 4096 := by
  simp only [opField, BitVec.extractLsb'_toNat, Nat.shiftRight_eq_div_pow]
  omega

theorem nField_toNat (w : Word) : (nField w).toNat = w.toNat % 16 := by
  simp [nField, BitVec.extractLsb'_toNat]

theorem nnField_toNat (w : Word) : (nnField w).toNat = w.toNat % 256 := by
  simp [nnField, BitVec.extractLsb'_toNat]

/-! ### The opcode map (30_encoding.md R85) -/

/-- The word of an instruction matches its own row, which is one of the map's. -/
theorem encode_matches_row (i : Instr) : Laws.EncodeMatchesRow.Statement i := by
  cases i with
  | cls => exact Laws.EncodeMatchesRow.cls
  | ret => exact Laws.EncodeMatchesRow.ret
  | jp nnn => exact Laws.EncodeMatchesRow.jp nnn
  | call nnn => exact Laws.EncodeMatchesRow.call nnn
  | seImm x nn => exact Laws.EncodeMatchesRow.seImm x nn
  | sneImm x nn => exact Laws.EncodeMatchesRow.sneImm x nn
  | seReg x y => exact Laws.EncodeMatchesRow.seReg x y
  | ldImm x nn => exact Laws.EncodeMatchesRow.ldImm x nn
  | addImm x nn => exact Laws.EncodeMatchesRow.addImm x nn
  | ldReg x y => exact Laws.EncodeMatchesRow.ldReg x y
  | orReg x y => exact Laws.EncodeMatchesRow.orReg x y
  | andReg x y => exact Laws.EncodeMatchesRow.andReg x y
  | xorReg x y => exact Laws.EncodeMatchesRow.xorReg x y
  | addReg x y => exact Laws.EncodeMatchesRow.addReg x y
  | subReg x y => exact Laws.EncodeMatchesRow.subReg x y
  | shrReg x y => exact Laws.EncodeMatchesRow.shrReg x y
  | subnReg x y => exact Laws.EncodeMatchesRow.subnReg x y
  | shlReg x y => exact Laws.EncodeMatchesRow.shlReg x y
  | sneReg x y => exact Laws.EncodeMatchesRow.sneReg x y
  | ldI nnn => exact Laws.EncodeMatchesRow.ldI nnn
  | jpV0 nnn => exact Laws.EncodeMatchesRow.jpV0 nnn
  | rnd x nn => exact Laws.EncodeMatchesRow.rnd x nn
  | drw x y n => exact Laws.EncodeMatchesRow.drw x y n
  | skp x => exact Laws.EncodeMatchesRow.skp x
  | sknp x => exact Laws.EncodeMatchesRow.sknp x
  | ldVxDt x => exact Laws.EncodeMatchesRow.ldVxDt x
  | ldVxK x => exact Laws.EncodeMatchesRow.ldVxK x
  | ldDtVx x => exact Laws.EncodeMatchesRow.ldDtVx x
  | ldStVx x => exact Laws.EncodeMatchesRow.ldStVx x
  | addI x => exact Laws.EncodeMatchesRow.addI x
  | ldF x => exact Laws.EncodeMatchesRow.ldF x
  | ldB x => exact Laws.EncodeMatchesRow.ldB x
  | storeRegs x => exact Laws.EncodeMatchesRow.storeRegs x
  | loadRegs x => exact Laws.EncodeMatchesRow.loadRegs x

theorem OpcodeRow.hits_iff (r : OpcodeRow) (w : Word) : r.hits w = true ↔ w &&& r.mask = r.value := by
  simp [OpcodeRow.hits]

/-- Two rows of the map that one word matches agree under each other's masks, and no two different rows do. -/
theorem row_unique {w : Word} {r q : OpcodeRow} (hr : r ∈ opcodeMap) (hq : q ∈ opcodeMap) (h : r.hits w = true)
    (h' : q.hits w = true) : r = q := by
  have rows_differ : ∀ r ∈ opcodeMap, ∀ q ∈ opcodeMap, r.value &&& q.mask = q.value &&& r.mask → r = q := by decide
  rw [OpcodeRow.hits_iff] at h h'
  refine rows_differ r hr q hq ?_
  rw [← h, ← h', BitVec.and_assoc, BitVec.and_assoc, BitVec.and_comm r.mask]

/-- What each family's rows test besides the family: the two whole words, a low nibble, a low byte. -/
theorem row_fields : ∀ r ∈ opcodeMap, opField r.mask = 0xF#4 ∧
    (opField r.value = 0x0#4 → r.mask = 0xFFFF#16 ∧ (r.value = 0x00E0#16 ∨ r.value = 0x00EE#16)) ∧
    (opField r.value = 0x5#4 ∨ opField r.value = 0x9#4 → nField r.mask = 0xF#4 ∧ nField r.value = 0x0#4) ∧
    (opField r.value = 0x8#4 → nField r.mask = 0xF#4 ∧
      nField r.value ∉ [0x8#4, 0x9#4, 0xA#4, 0xB#4, 0xC#4, 0xD#4, 0xF#4]) ∧
    (opField r.value = 0xE#4 → nnField r.mask = 0xFF#8 ∧ nnField r.value ∈ [0x9E#8, 0xA1#8]) ∧
    (opField r.value = 0xF#4 → nnField r.mask = 0xFF#8 ∧
      nnField r.value ∈ [0x07#8, 0x0A#8, 0x15#8, 0x18#8, 0x1E#8, 0x29#8, 0x33#8, 0x55#8, 0x65#8]) := by decide

theorem opField_of_hits {w : Word} {r : OpcodeRow} (h : r.hits w = true) (hm : opField r.mask = 0xF#4) :
    opField r.value = opField w := by
  rw [OpcodeRow.hits_iff] at h
  rw [← h, opField, field_and, ← opField, ← opField, hm]
  exact BitVec.and_allOnes

theorem nField_of_hits {w : Word} {r : OpcodeRow} (h : r.hits w = true) (hm : nField r.mask = 0xF#4) :
    nField r.value = nField w := by
  rw [OpcodeRow.hits_iff] at h
  rw [← h, nField, field_and, ← nField, ← nField, hm]
  exact BitVec.and_allOnes

theorem nnField_of_hits {w : Word} {r : OpcodeRow} (h : r.hits w = true) (hm : nnField r.mask = 0xFF#8) :
    nnField r.value = nnField w := by
  rw [OpcodeRow.hits_iff] at h
  rw [← h, nnField, field_and, ← nnField, ← nnField, hm]
  exact BitVec.and_allOnes

/-- A refused word matches no row: its family's rows test just the field for which it is refused. -/
theorem not_hits_of_unsupported {w : Word} (h : ∃ why, decodeWord w = .unsupported why) {r : OpcodeRow}
    (hr : r ∈ opcodeMap) : r.hits w ≠ true := by
  intro hit
  obtain ⟨hop, row0, row59, row8, rowE, rowF⟩ := row_fields r hr
  rw [opField_of_hits hit hop] at row0 row59 row8 rowE rowF
  obtain ⟨hw, hw0, hw1⟩ | ⟨hw, hn⟩ | ⟨hw, hn⟩ | ⟨hw, hn⟩ | ⟨hw, hn⟩ | ⟨hw, hn⟩ := (decodeWord_unsupported_iff w).1 h
  · obtain ⟨hm, hv⟩ := row0 hw
    rw [OpcodeRow.hits_iff, hm] at hit
    have heq : w = r.value := BitVec.and_allOnes.symm.trans hit
    rw [← heq] at hv
    exact hv.elim hw0 hw1
  · obtain ⟨hm, hv⟩ := row59 (.inl hw)
    exact hn (nField_of_hits hit hm ▸ hv)
  · obtain ⟨hm, hv⟩ := row8 hw
    exact hv (nField_of_hits hit hm ▸ hn)
  · obtain ⟨hm, hv⟩ := row59 (.inr hw)
    exact hn (nField_of_hits hit hm ▸ hv)
  · obtain ⟨hm, hv⟩ := rowE hw
    exact hn (nnField_of_hits hit hm ▸ hv)
  · obtain ⟨hm, hv⟩ := rowF hw
    exact hn (nnField_of_hits hit hm ▸ hv)

/-! ### The statements -/

/-- Settles O8: the two bytes are those of the encoding, which decodes to the instruction. -/
theorem decodeOfEncodeIsTheInstruction : Obligations.DecodeOfEncodeIsTheInstruction := by
  unfold Obligations.DecodeOfEncodeIsTheInstruction
  intro i rest hi
  refine ⟨?_, rfl⟩
  rw [encodeBytes, decode_bytesOfWord, decodeWord_encode hi]

/-- Settles O9, by the inversion of the decoder. -/
theorem encodeOfDecodeIsTheWord : Obligations.EncodeOfDecodeIsTheWord := by
  unfold Obligations.EncodeOfDecodeIsTheWord
  exact fun w i h => encode_of_decodeWord h

/-- Settles O10: a decoded word is an encoding, which matches its own row; and no refused word matches one. -/
theorem decoderAgreesWithTheOpcodeMap : Obligations.DecoderAgreesWithTheOpcodeMap := by
  unfold Obligations.DecoderAgreesWithTheOpcodeMap
  refine ⟨fun w i h => ?_, fun w r hr hit => ?_⟩
  · obtain ⟨rfl, -⟩ := encode_of_decodeWord h
    obtain ⟨hmatch, hmem⟩ := encode_matches_row i
    have hhits := (OpcodeRow.hits_iff i.row (encode i)).2 hmatch
    exact ⟨hhits, hmem, fun r hr hit => row_unique hr hmem hit hhits⟩
  · obtain hbad | hi := unsupported_or_instr w
    · exact absurd hit (not_hits_of_unsupported hbad hr)
    · exact hi

/-- Settles O11: the table in the decoder's fields, read as numbers. -/
theorem unsupportedWordsAreExactlyTheTables : Obligations.UnsupportedWordsAreExactlyTheTables := by
  unfold Obligations.UnsupportedWordsAreExactlyTheTables
  intro w
  rw [decodeWord_unsupported_iff]
  simp only [← BitVec.toNat_inj, ne_eq, List.mem_cons, List.not_mem_nil, opField_toNat, nField_toNat, nnField_toNat,
    BitVec.toNat_ofNat]

/-- Settles O7: each word is the encoding of the instruction. -/
theorem sampleWordsDecodeToTheirInstructions : Obligations.SampleWordsDecodeToTheirInstructions := by
  unfold Obligations.SampleWordsDecodeToTheirInstructions
  decide

end Sys2Proof
end

section
/-!
PROOFS. The meanings that check before they write: one equation for each outcome of RET, CALL, SKP, SKNP and of the wait for
a key.
-/

namespace Sys2Proof.Machine

variable {s : State}

@[simp] theorem Attempt.andThen_done {α : Type} (a : α) (s : State) (w : Word) (k : α → Result) :
    (Attempt.done a).andThen s w k = k a := rfl

@[simp] theorem Attempt.andThen_raise {α : Type} (kind : FaultKind) (s : State) (w : Word) (k : α → Result) :
    (Attempt.raise kind).andThen s w k = .next (s.raiseFault kind (some w)) := rfl

@[simp] theorem Attempt.andThen_stop {α : Type} (why : Fault) (s : State) (w : Word) (k : α → Result) :
    (Attempt.stop why).andThen s w k = .fault why := rfl

/-! ### The stack (41_control_flow.md R120, R124) -/

theorem exec_ret_of_empty (h : s.sp = 0) :
    exec .ret s = .next (s.raiseFault .stackUnderflow (some (encode .ret))) := by
  simp [exec, execRet, State.pop, h]

theorem exec_ret_of_slot {a : Word} (h : s.sp ≠ 0) (ha : s.stack[s.sp - 1]? = some a) :
    exec .ret s = .next ({ s with sp := s.sp - 1 }.setPc (a + 2)) := by
  simp [exec, execRet, State.pop, h, ha]

/-- Outside the stack's invariant, where the slot does not exist (log 15). -/
theorem exec_ret_of_no_slot (h : s.sp ≠ 0) (ha : s.stack[s.sp - 1]? = none) :
    exec .ret s = .fault .noSuchStackSlot := by
  simp [exec, execRet, State.pop, h, ha]

theorem exec_call_of_full (nnn : Imm12) (h : s.sp = s.params.stackCapacity) :
    exec (.call nnn) s = .next (s.raiseFault .stackOverflow (some (encode (.call nnn)))) := by
  simp [exec, execCall, State.push, h]

theorem exec_call_of_room (nnn : Imm12) (h : s.sp ≠ s.params.stackCapacity) (hlt : s.sp < s.stack.length) :
    exec (.call nnn) s =
      .next ({ s with stack := s.stack.set s.sp s.pc, sp := s.sp + 1 }.setPc (addrOf nnn)) := by
  simp [exec, execCall, State.push, h, hlt]

theorem exec_call_of_no_slot (nnn : Imm12) (h : s.sp ≠ s.params.stackCapacity) (hle : ¬s.sp < s.stack.length) :
    exec (.call nnn) s = .fault .noSuchStackSlot := by
  simp [exec, execCall, State.push, h, hle]

/-! ### The keys (44_keys_timers.md R200 to R203) -/

theorem exec_skp_of_key {x : Reg} (h : (s.getV x).toNat < 16) :
    exec (.skp x) s = .next (s.skipIf (s.keys.get ⟨(s.getV x).toNat, h⟩)) := by
  simp [exec, execSkp, State.keyDown, h]

theorem exec_sknp_of_key {x : Reg} (h : (s.getV x).toNat < 16) :
    exec (.sknp x) s = .next (s.skipIf (!s.keys.get ⟨(s.getV x).toNat, h⟩)) := by
  simp [exec, execSknp, State.keyDown, h]

theorem exec_skp_of_no_key {x : Reg} (h : ¬(s.getV x).toNat < 16) :
    exec (.skp x) s = .next (s.raiseFault .keyOutOfRange (some (encode (.skp x)))) := by
  simp [exec, execSkp, State.keyDown, h]

theorem exec_sknp_of_no_key {x : Reg} (h : ¬(s.getV x).toNat < 16) :
    exec (.sknp x) s = .next (s.raiseFault .keyOutOfRange (some (encode (.sknp x)))) := by
  simp [exec, execSknp, State.keyDown, h]

theorem exec_ldVxK_of_lowest (x : Reg) {k : Reg} (h : lowestKey s.keys = some k) :
    exec (.ldVxK x) s = .next (s.setV x (codeOf k)).advance := by
  simp [exec, execLdVxK, h]

theorem exec_ldVxK_of_none (x : Reg) (h : lowestKey s.keys = none) : exec (.ldVxK x) s = .next s := by
  simp [exec, execLdVxK, h]

end Sys2Proof.Machine
end

section
/-!
PROOFS. The invariant: the shapes of instruction keep it, so executing an instruction keeps it, so every turn does; it
rules out the model's one stop; and it holds after every reset.
-/

namespace Sys2Proof.Machine

variable {s t : State}

/-! ### What keeps the invariant -/

/-- A running core may take any `pc` up to 0x10FE (10_state.md R35). -/
theorem State.inv_setPc (h : s.Inv) (hr : s.run = .running) {a : Word} (ha : a.toNat ≤ 0x10FE) : (s.setPc a).Inv := by
  obtain ⟨hpar, hmem, hstack, hI, -, -⟩ := h
  exact ⟨hpar, hmem, hstack, hI, ha, by simp [State.statusOk, hr]⟩

/-- Going on one or two instructions past a fetchable address stays below 0x10FE. -/
theorem fetchable_add_toNat_le {a k : Word} (ha : fetchable a) (hk : k.toNat ≤ 4) : (a + k).toNat ≤ 0x10FE := by
  rw [BitVec.toNat_add]
  omega

theorem State.inv_skipIf (h : s.Inv) (hr : s.run = .running) (hp : fetchable s.pc) (c : Bool) : (s.skipIf c).Inv := by
  refine State.inv_setPc h hr ?_
  split
  · exact fetchable_add_toNat_le hp (by decide)
  · exact fetchable_add_toNat_le hp (by decide)

theorem State.inv_advance (h : s.Inv) (hr : s.run = .running) (hp : fetchable s.pc) : s.advance.Inv :=
  State.inv_skipIf h hr hp false

theorem State.inv_setI (h : s.Inv) {a : Word} (ha : a.toNat ≤ 0xFFF) : (s.setI a).Inv := by
  obtain ⟨hpar, hmem, hstack, -, hpc, hst⟩ := h
  exact ⟨hpar, hmem, hstack, ha, hpc, hst⟩

theorem State.inv_storeBytes_advance (h : s.Inv) (hr : s.run = .running) (hp : fetchable s.pc) (base : Word)
    (bs : List Byte) : (s.storeBytes base 0 bs).advance.Inv := by
  obtain ⟨hpar, hmem, hrest⟩ := h
  rw [State.storeBytes_eq]
  exact State.inv_advance ⟨hpar, s.storeBytes_wf base bs 0 hmem, hrest⟩ hr hp

theorem State.inv_loadUpTo_advance (h : s.Inv) (hr : s.run = .running) (hp : fetchable s.pc) (base : Word) (x : Reg) :
    (s.loadUpTo base x).advance.Inv := by
  obtain ⟨hload, -⟩ := s.loadUpTo_spec base x
  rw [hload]
  exact State.inv_advance (s := { s with V := (s.loadUpTo base x).V }) h hr hp

/-- A halt by a fault whose record is consistent (60_exceptions.md R225, R226). -/
theorem State.inv_raiseFault (h : s.Inv) {kind : FaultKind} {w : Option Word}
    (hw : w.isNone = (kind == .illegalAddress)) (hp : decide (fetchable s.pc) = (kind != .illegalAddress)) :
    (s.raiseFault kind w).Inv := by
  obtain ⟨hpar, hmem, hstack, hI, hpc, -⟩ := h
  exact ⟨hpar, hmem, hstack, hI, hpc, by simp [State.statusOk, hw, hp]⟩

/-- The fault of a fetched instruction: any but an illegal address, with its word. -/
theorem State.inv_raiseFault_word (h : s.Inv) (hp : fetchable s.pc) {kind : FaultKind} (hk : kind ≠ .illegalAddress)
    (w : Word) : (s.raiseFault kind (some w)).Inv :=
  State.inv_raiseFault h (by simp [hk]) (by simp [hk, hp])

/-- A push into a free slot of a fetchable address keeps the slots in use fetchable. -/
theorem State.stackOk_push (h : s.StackOk) {a : Word} (ha : fetchable a) (hroom : s.sp < s.stack.length) :
    State.StackOk { s with stack := s.stack.set s.sp a, sp := s.sp + 1 } := by
  obtain ⟨hlen, hsp, hused⟩ := h
  refine ⟨(List.length_set ..).trans hlen, by show s.sp + 1 ≤ s.params.stackCapacity; omega, fun b hb => ?_⟩
  rw [List.take_add_one, List.take_set_of_le (Nat.le_refl _), List.getElem?_set_self hroom] at hb
  obtain hb | hb := List.mem_append.1 hb
  · exact hused b hb
  · rw [List.mem_singleton.1 hb]; exact ha

theorem State.stackOk_pop (h : s.StackOk) : State.StackOk { s with sp := s.sp - 1 } := by
  obtain ⟨hlen, hsp, hused⟩ := h
  exact ⟨hlen, by show s.sp - 1 ≤ s.params.stackCapacity; omega,
    fun a ha => hused a (List.take_subset_take_left s.stack (Nat.sub_le _ _) ha)⟩

/-- The popped slot is one in use, so it holds a fetchable address. -/
theorem State.fetchable_top (h : s.StackOk) (h0 : s.sp ≠ 0) (hlt : s.sp - 1 < s.stack.length) :
    fetchable s.stack[s.sp - 1] := by
  obtain ⟨-, -, hused⟩ := h
  exact hused _ (List.mem_take_iff_getElem.2 ⟨s.sp - 1, by omega, rfl⟩)

theorem State.inv_withStack (h : s.Inv) {st : List Word} {n : Nat} (hst : State.StackOk { s with stack := st, sp := n }) :
    State.Inv { s with stack := st, sp := n } := by
  obtain ⟨hpar, hmem, -, hrest⟩ := h
  exact ⟨hpar, hmem, hst, hrest⟩

/-! ### Instructions -/

/-- Executing a fetched instruction keeps the invariant. -/
theorem exec_inv {i : Instr} (hi : s.Inv) (hr : s.run = .running) (hp : fetchable s.pc) (h : exec i s = .next t) :
    t.Inv := by
  obtain ⟨-, -, hstack, -⟩ := id hi
  obtain ⟨hlen, hsp, -⟩ := id hstack
  cases i with
  | cls => cases h; exact State.inv_advance (s := s.showFrame _) hi hr hp
  | ret =>
    by_cases h0 : s.sp = 0
    · rw [exec_ret_of_empty h0] at h; cases h
      exact State.inv_raiseFault_word hi hp (by decide) _
    · have hlt : s.sp - 1 < s.stack.length := by omega
      have ha := State.fetchable_top hstack h0 hlt
      rw [exec_ret_of_slot h0 (List.getElem?_eq_getElem hlt)] at h; cases h
      exact State.inv_setPc (State.inv_withStack hi (State.stackOk_pop hstack)) hr
        (fetchable_add_toNat_le ha (by decide))
  | jp nnn => cases h; exact State.inv_setPc hi hr (by rw [addrOf_toNat]; omega)
  | call nnn =>
    by_cases hfull : s.sp = s.params.stackCapacity
    · rw [exec_call_of_full nnn hfull] at h; cases h
      exact State.inv_raiseFault_word hi hp (by decide) _
    · have hroom : s.sp < s.stack.length := by omega
      rw [exec_call_of_room nnn hfull hroom] at h; cases h
      exact State.inv_setPc (State.inv_withStack hi (State.stackOk_push hstack hp hroom)) hr
        (by rw [addrOf_toNat]; omega)
  | seImm x nn => cases h; exact State.inv_skipIf hi hr hp _
  | sneImm x nn => cases h; exact State.inv_skipIf hi hr hp _
  | seReg x y => cases h; exact State.inv_skipIf hi hr hp _
  | ldImm x nn => cases h; exact State.inv_advance (s := s.setV _ _) hi hr hp
  | addImm x nn => cases h; exact State.inv_advance (s := s.setV _ _) hi hr hp
  | ldReg x y => cases h; exact State.inv_advance (s := s.setV _ _) hi hr hp
  | orReg x y => cases h; exact State.inv_advance (s := s.setV _ _) hi hr hp
  | andReg x y => cases h; exact State.inv_advance (s := s.setV _ _) hi hr hp
  | xorReg x y => cases h; exact State.inv_advance (s := s.setV _ _) hi hr hp
  | addReg x y => cases h; exact State.inv_advance (s := s.setFlagThen _ _ _) hi hr hp
  | subReg x y => cases h; exact State.inv_advance (s := s.setFlagThen _ _ _) hi hr hp
  | shrReg x y => cases h; exact State.inv_advance (s := s.setFlagThen _ _ _) hi hr hp
  | subnReg x y => cases h; exact State.inv_advance (s := s.setFlagThen _ _ _) hi hr hp
  | shlReg x y => cases h; exact State.inv_advance (s := s.setFlagThen _ _ _) hi hr hp
  | sneReg x y => cases h; exact State.inv_skipIf hi hr hp _
  | ldI nnn => cases h; exact State.inv_advance (State.inv_setI hi (by rw [addrOf_toNat]; omega)) hr hp
  | jpV0 nnn => cases h; exact State.inv_setPc hi hr (by rw [addrOf_add_wordOf_toNat]; omega)
  | rnd x nn => cases h; exact State.inv_advance (s := s.afterDraw.setV _ _) hi hr hp
  | drw x y n => cases h; exact State.inv_advance (s := (s.setV _ _).showFrame _) hi hr hp
  | skp x =>
    by_cases hk : (s.getV x).toNat < 16
    · rw [exec_skp_of_key hk] at h; cases h
      exact State.inv_skipIf hi hr hp _
    · rw [exec_skp_of_no_key hk] at h; cases h
      exact State.inv_raiseFault_word hi hp (by decide) _
  | sknp x =>
    by_cases hk : (s.getV x).toNat < 16
    · rw [exec_sknp_of_key hk] at h; cases h
      exact State.inv_skipIf hi hr hp _
    · rw [exec_sknp_of_no_key hk] at h; cases h
      exact State.inv_raiseFault_word hi hp (by decide) _
  | ldVxDt x => cases h; exact State.inv_advance (s := s.setV _ _) hi hr hp
  | ldVxK x =>
    cases hk : lowestKey s.keys with
    | none => rw [exec_ldVxK_of_none x hk] at h; cases h; exact hi
    | some k => rw [exec_ldVxK_of_lowest x hk] at h; cases h; exact State.inv_advance (s := s.setV _ _) hi hr hp
  | ldDtVx x => cases h; exact State.inv_advance (s := s.setDT _) hi hr hp
  | ldStVx x => cases h; exact State.inv_advance (s := s.setST _) hi hr hp
  | addI x =>
    cases h
    exact State.inv_advance (State.inv_setI hi (by rw [add_wordOf_masked_toNat]; omega)) hr hp
  | ldF x =>
    cases h
    exact State.inv_advance (State.inv_setI hi (by rw [wordOf_mul_five_toNat]; omega)) hr hp
  | ldB x => cases h; exact State.inv_storeBytes_advance hi hr hp _ _
  | storeRegs x => cases h; exact State.inv_storeBytes_advance hi hr hp _ _
  | loadRegs x => cases h; exact State.inv_loadUpTo_advance hi hr hp _ _

/-- Inside the stack's invariant no push and no pop misses its slot, so every instruction answers a next state. -/
theorem exec_answers (h : s.StackOk) (i : Instr) : ∃ t, exec i s = .next t := by
  obtain ⟨hlen, hsp, -⟩ := h
  cases i with
  | ret =>
    by_cases h0 : s.sp = 0
    · exact ⟨_, exec_ret_of_empty h0⟩
    · exact ⟨_, exec_ret_of_slot h0 (List.getElem?_eq_getElem (by omega))⟩
  | call nnn =>
    by_cases hfull : s.sp = s.params.stackCapacity
    · exact ⟨_, exec_call_of_full nnn hfull⟩
    · exact ⟨_, exec_call_of_room nnn hfull (by omega)⟩
  | skp x =>
    by_cases hk : (s.getV x).toNat < 16
    · exact ⟨_, exec_skp_of_key hk⟩
    · exact ⟨_, exec_skp_of_no_key hk⟩
  | sknp x =>
    by_cases hk : (s.getV x).toNat < 16
    · exact ⟨_, exec_sknp_of_key hk⟩
    · exact ⟨_, exec_sknp_of_no_key hk⟩
  | ldVxK x =>
    cases hk : lowestKey s.keys with
    | none => exact ⟨_, exec_ldVxK_of_none x hk⟩
    | some k => exact ⟨_, exec_ldVxK_of_lowest x hk⟩
  | _ => exact ⟨_, rfl⟩

/-! ### Turns of the agents -/

theorem State.inv_haltStopped (h : s.Inv) (hs : s.stop = true) : s.haltStopped.Inv := by
  obtain ⟨hpar, hmem, hstack, hI, hpc, -⟩ := h
  exact ⟨hpar, hmem, hstack, hI, hpc, hs⟩

theorem State.inv_tick (h : s.Inv) : s.tick.Inv := by
  cases hr : s.run with
  | running =>
    obtain ⟨hpar, hmem, hstack, hI, hpc, -⟩ := h
    rw [State.tick_running s hr]
    exact ⟨hpar, hmem, hstack, hI, hpc, by simp [State.statusOk, hr]⟩
  | halted r => rw [State.tick_halted s hr]; exact h

/-- A stop request sets what a halted core has set already, and clears the `sound` a fault has cleared. -/
theorem State.inv_requestStop (h : s.Inv) : s.requestStop.Inv := by
  obtain ⟨hpar, hmem, hstack, hI, hpc, hst⟩ := h
  refine ⟨hpar, hmem, hstack, hI, hpc, ?_⟩
  unfold State.statusOk at hst ⊢
  rw [State.requestStop_run]
  split at hst
  · rfl
  · rfl
  · simp_all

/-! ### The machine after reset (70_reset_and_hazards.md R260) -/

theorem State.inv_resetOf {p : Params} (hp : p.ok) : (State.resetOf p).Inv :=
  ⟨hp, Memory.wf_nil p.font, ⟨List.length_replicate, Nat.zero_le _, nofun⟩, Nat.zero_le _,
    show (0x200#16).toNat ≤ 0x10FE by decide, rfl⟩

/-- The image reset copies lies inside memory, so the copy keeps the canonical form. -/
theorem State.inv_writeImage (h : s.Inv) {bs : List Byte} {a : Nat} (ha : a + bs.length ≤ Config.memSize) :
    (s.writeImage a bs).Inv := by
  obtain ⟨hpar, hmem, hrest⟩ := h
  rw [State.writeImage_eq]
  exact ⟨hpar, s.writeImage_wf bs a ha hmem, hrest⟩

theorem resetImage_of_length_le (p : Params) {image : List Byte} (h : image.length ≤ 3584) :
    resetImage p (some image) = .next ((State.resetOf p).writeImage Config.progOrigin image) := by
  have hfits : ¬image.length + Config.progOrigin > Config.memSize := by
    simp only [Config.progOrigin, Config.memSize]; omega
  simp only [resetImage, if_neg hfits]

theorem resetImage_of_lt_length (p : Params) {image : List Byte} (h : 3584 < image.length) :
    resetImage p (some image) = .refused .imageTooLarge := by
  have hlong : image.length + Config.progOrigin > Config.memSize := by
    simp only [Config.progOrigin, Config.memSize]; omega
  simp only [resetImage, if_pos hlong]

theorem State.resetOf_readByte (p : Params) (a : Nat) :
    (State.resetOf p).readByte a = Memory.unlisted p.font a := rfl

/-! ### The statements -/

/-- Settles O5: every turn keeps the invariant, the engine's by way of the instruction it executes or the halt it makes. -/
theorem everyStepKeepsTheInvariant : Obligations.EveryStepKeepsTheInvariant := by
  unfold Obligations.EveryStepKeepsTheInvariant
  intro s t hi h
  have hi' : s.afterTurn.Inv := hi
  obtain ⟨i, ⟨⟨-, hr, -, hp⟩, -⟩, he⟩ | ⟨-, -, hend⟩ | ⟨-, -, rfl⟩ | ⟨-, rfl⟩ | ⟨keys, -, rfl⟩ | ⟨-, rfl⟩ := step_next h
  · exact exec_inv hi' hr hp he
  · obtain ⟨hs, rfl⟩ | ⟨-, hp, rfl⟩ | ⟨-, hp, rfl⟩ := hend
    · exact State.inv_haltStopped hi' hs
    · exact State.inv_raiseFault hi' rfl (decide_eq_false hp)
    · exact State.inv_raiseFault_word hi' hp (by decide) _
  · exact hi'
  · exact State.inv_tick hi'
  · exact hi'
  · exact State.inv_requestStop hi'

/-- Settles O6: only an instruction can stop a step, and inside the stack's invariant none does. -/
theorem aStepAlwaysAnswersANextState : Obligations.AStepAlwaysAnswersANextState := by
  unfold Obligations.AStepAlwaysAnswersANextState
  rintro s ⟨-, -, hstack, -⟩
  obtain ⟨-, h⟩ | ⟨-, h⟩ | ⟨keys, -, h⟩ | ⟨-, h⟩ := step_cases s
  · rw [h]
    obtain ⟨_, -, e⟩ | ⟨-, -, e⟩ | ⟨-, -, -, e⟩ | ⟨-, -, -, _, -, e⟩ | ⟨-, -, -, i, -, e⟩ := s.afterTurn.engineStep_cases
    · exact ⟨_, e⟩
    · exact ⟨_, e⟩
    · exact ⟨_, e⟩
    · exact ⟨_, e⟩
    · rw [e]; exact exec_answers (s := s.afterTurn) hstack i
  · exact ⟨_, h⟩
  · exact ⟨_, h⟩
  · exact ⟨_, h⟩

/-- Settles O2: the image copy writes the image's bytes and nothing but memory. -/
theorem resetCopiesTheImageOrMakesNoMachine : Obligations.ResetCopiesTheImageOrMakesNoMachine := by
  unfold Obligations.ResetCopiesTheImageOrMakesNoMachine
  refine fun p => ⟨fun image hlen => ⟨_, resetImage_of_length_le p hlen, fun k hk => ?_, fun a ha => ?_,
    State.writeImage_eq _ _ _⟩, fun image hlen => resetImage_of_lt_length p hlen, rfl⟩
  · rw [State.writeImage_readByte, dif_pos (by simp only [Config.progOrigin]; omega)]
    simp only [Config.progOrigin, Nat.add_sub_cancel_left]
  · rw [State.writeImage_readByte, dif_neg (by simp only [Config.progOrigin]; omega)]

/-- Settles O4: a reset that makes a machine copied an image that fits, onto a state of the invariant. -/
theorem everyResetMachineMeetsTheInvariant : Obligations.EveryResetMachineMeetsTheInvariant := by
  unfold Obligations.EveryResetMachineMeetsTheInvariant
  intro p image t hp h
  cases image with
  | none => cases h
  | some bytes =>
    by_cases hlen : bytes.length ≤ 3584
    · rw [resetImage_of_length_le p hlen] at h
      cases h
      exact State.inv_writeImage (State.inv_resetOf hp) (by simp only [Config.progOrigin, Config.memSize]; omega)
    · rw [resetImage_of_lt_length p (by omega)] at h
      cases h

/-- Settles O3: the reference parameters are legal. -/
theorem resetMeetsTheInvariant : Obligations.ResetMeetsTheInvariant :=
  State.inv_resetOf (p := Params.reference) (by decide)

/-- Settles O1: reset with the empty image is the reset state, whose fields say it; memory reads as its reset contents. -/
theorem resetGivesEveryPieceItsValue : Obligations.ResetGivesEveryPieceItsValue := by
  unfold Obligations.ResetGivesEveryPieceItsValue
  intro p
  refine ⟨State.resetOf p, resetImage_of_length_le p (Nat.zero_le _), fun a h => ?_, fun a h _ => ?_, fun r => ?_,
    rfl, rfl, rfl, List.length_replicate, fun a ha => List.eq_of_mem_replicate ha, rfl, rfl,
    FrameBuffer.cell_blank, rfl, rfl, rfl, rfl, rfl⟩
  · rw [State.resetOf_readByte, Memory.unlisted, dif_pos h]
  · rw [State.resetOf_readByte, Memory.unlisted, dif_neg (by omega)]
  · simp [State.getV, State.resetOf, Vector.get_eq_getElem]

end Sys2Proof.Machine
end

section
/-!
PROOFS. The turns of the agents (00_scope.md R21, 60_exceptions.md sections 1, 2, 4 and 5): what a tick leaves unchanged and
what a run of ticks does, what a step can do to a halted core, how a step ends a run; then the statements about the schedule,
the stop signal, faults, ticks and the key source.
-/

namespace Sys2Proof.Machine

variable {s t : State}

/-! ### Whose turn it is -/

theorem step_of_engine (h : s.nextTurn = .engine) : step s = s.afterTurn.engineStep := by
  rw [step_eq_takeTurn, h]
  rfl

theorem step_of_tick (h : s.nextTurn = .tick) : step s = .next s.afterTurn.tick := by
  rw [step_eq_takeTurn, h]
  rfl

theorem step_of_setKeys {keys : Keys} (h : s.nextTurn = .setKeys keys) : step s = .next (s.afterTurn.setKeys keys) := by
  rw [step_eq_takeTurn, h]
  rfl

theorem step_of_requestStop (h : s.nextTurn = .requestStop) : step s = .next s.afterTurn.requestStop := by
  rw [step_eq_takeTurn, h]
  rfl

/-! ### Ticks (60_exceptions.md R236, R237) -/

/-- A tick writes the timers and the sound output alone. -/
theorem State.tick_eq (s : State) : s.tick = { s with DT := s.tick.DT, ST := s.tick.ST, sound := s.tick.sound } := by
  cases hr : s.run with
  | running => rw [State.tick_running s hr, hr]
  | halted r => rw [State.tick_halted s hr, ← hr]

@[simp] theorem State.tick_stop (s : State) : s.tick.stop = s.stop := by rw [State.tick_eq]
@[simp] theorem State.tick_keys (s : State) : s.tick.keys = s.keys := by rw [State.tick_eq]
@[simp] theorem State.tick_turns (s : State) : s.tick.turns = s.turns := by rw [State.tick_eq]

theorem State.tick_ST_toNat (hr : s.run = .running) : s.tick.ST.toNat = s.ST.toNat - 1 := by
  rw [State.tick_running s hr]
  exact countDown_toNat s.ST

theorem State.tick_sound_iff (hr : s.run = .running) : s.tick.sound = true ↔ s.tick.ST ≠ 0 := by
  simp [State.tick_running s hr]

/-- After a tick `sound` is true exactly when the sound timer was above 1. -/
theorem State.tick_sound_iff_lt (hr : s.run = .running) : s.tick.sound = true ↔ 1 < s.ST.toNat := by
  rw [State.tick_sound_iff hr, ne_eq, ← BitVec.toNat_inj, State.tick_ST_toNat hr]
  simp only [BitVec.ofNat_eq_ofNat, BitVec.toNat_ofNat]
  omega

theorem State.ticks_ST_toNat (hr : s.run = .running) (n : Nat) : (s.ticks n).ST.toNat = s.ST.toNat - n := by
  induction n generalizing s with
  | zero => rfl
  | succ n ih =>
    have hr' : s.tick.run = .running := by rw [State.tick_run, hr]
    rw [State.ticks, ih hr', State.tick_ST_toNat hr]
    omega

/-- The last of the ticks sets `sound`, from a timer that the ticks before it have counted down. -/
theorem State.ticks_sound_iff (hr : s.run = .running) (n : Nat) :
    (s.ticks (n + 1)).sound = true ↔ n + 1 < s.ST.toNat := by
  induction n generalizing s with
  | zero => exact State.tick_sound_iff_lt hr
  | succ n ih =>
    have hr' : s.tick.run = .running := by rw [State.tick_run, hr]
    rw [State.ticks, ih hr', State.tick_ST_toNat hr]
    omega

theorem State.ticks_eq (s : State) (n : Nat) :
    s.ticks n = { s with DT := (s.ticks n).DT, ST := (s.ticks n).ST, sound := (s.ticks n).sound } := by
  induction n generalizing s with
  | zero => rfl
  | succ n ih =>
    rw [State.ticks, ih s.tick, State.tick_eq s]

/-! ### A halted core (60_exceptions.md R235, R238) -/

/-- Everything a step can do to a halted core. -/
theorem step_halted {r : HaltReason} (hr : s.run = .halted r) (h : step s = .next t) :
    t = s.afterTurn ∨ (∃ keys, s.nextTurn = .setKeys keys ∧ t = s.afterTurn.setKeys keys) ∨
      (s.nextTurn = .requestStop ∧ t = s.afterTurn.requestStop) := by
  obtain ⟨i, ⟨⟨-, hrun, -⟩, -⟩, -⟩ | ⟨-, hrun, -⟩ | ⟨-, -, ht⟩ | ⟨-, ht⟩ | hkeys | hstop := step_next h
  · simp [hr] at hrun
  · simp [hr] at hrun
  · exact .inl ht
  · exact .inl (ht.trans (State.tick_halted _ hr))
  · exact .inr (.inl hkeys)
  · exact .inr (.inr hstop)

/-! ### What an engine step keeps -/

/-- An engine step keeps the keys and the schedule, and a set stop signal. -/
theorem State.engineStep_keeps (h : s.engineStep = .next t) :
    t.keys = s.keys ∧ t.turns = s.turns ∧ (s.stop = true → t.stop = true) := by
  obtain ⟨_, -, e⟩ | ⟨-, -, e⟩ | ⟨-, -, -, e⟩ | ⟨-, -, -, _, -, e⟩ | ⟨-, -, -, i, -, e⟩ := s.engineStep_cases
  all_goals rw [e] at h
  · cases h; exact ⟨rfl, rfl, id⟩
  · cases h; exact ⟨rfl, rfl, id⟩
  · cases h; exact ⟨rfl, rfl, fun _ => rfl⟩
  · cases h; exact ⟨rfl, rfl, fun _ => rfl⟩
  · obtain hf | ⟨_, -, -, rfl⟩ := exec_next h
    · obtain ⟨hkeys, hturns, -⟩ := hf.inputs
      obtain ⟨-, hstop, -⟩ := hf.status
      exact ⟨hkeys, hturns, hstop.trans⟩
    · exact ⟨rfl, rfl, fun _ => rfl⟩

/-! ### Faults (60_exceptions.md R226) -/

/-- A fault an engine step ends in is raised on the state before it, and the word recorded is the one fetched: an
instruction's own fault records its encoding, which is the word it was decoded from. -/
theorem State.engineStep_fault {kind : FaultKind} {p : Word} {w : Option Word} (hr : s.run = .running)
    (h : s.engineStep = .next t) (ht : t.run = .halted (.fault kind p w)) :
    t = s.raiseFault kind w ∧ (w = none ↔ kind = .illegalAddress) ∧ ∀ v, w = some v → v = s.fetchWord := by
  obtain ⟨_, hrun, e⟩ | ⟨-, -, e⟩ | ⟨-, -, -, e⟩ | ⟨-, -, -, why, -, e⟩ | ⟨-, -, -, i, hd, e⟩ := s.engineStep_cases
  all_goals rw [e] at h
  · simp [hr] at hrun
  · cases h; simp at ht
  · cases h; cases ht; simp
  · cases h; cases ht; simp
  · obtain hf | ⟨k, hk, -, rfl⟩ := exec_next h
    · obtain ⟨hrun, -⟩ := hf.status
      simp [hrun, hr] at ht
    · cases ht
      obtain ⟨hw, -⟩ := encode_of_decodeWord hd
      simp [hk, hw]

/-! ### The statements -/

/-- Settles O12: a step is the turn at the head of the schedule, and no turn writes the rest of it. -/
theorem aStepIsTheTurnOfOneAgent : Obligations.AStepIsTheTurnOfOneAgent := by
  unfold Obligations.AStepIsTheTurnOfOneAgent
  refine fun s => ⟨fun h => by rw [step, h], fun t rest h => by rw [step, h], fun t h => h ▸ step_eq_takeTurn s,
    step_of_engine, fun u h => ?_⟩
  obtain ⟨-, e⟩ | ⟨-, e⟩ | ⟨keys, -, e⟩ | ⟨-, e⟩ := step_cases s
  all_goals rw [e] at h
  · obtain ⟨-, hturns, -⟩ := State.engineStep_keeps h
    exact hturns
  · cases h; exact State.tick_turns s.afterTurn
  · cases h; rfl
  · cases h; rfl

/-- Settles O13: the engine's turn fetches that word and runs it. -/
theorem stepExecutesTheBigEndianWordAtPc : Obligations.StepExecutesTheBigEndianWordAtPc := by
  unfold Obligations.StepExecutesTheBigEndianWordAtPc
  rintro s i ⟨hn, hr, hs, hp⟩ hd
  have hd' : decodeWord s.afterTurn.fetchWord = .instr i := hd
  rw [step_of_engine hn, State.engineStep_runWord s.afterTurn hr hs hp, State.runWord_instr hd']

/-- Settles O15: the request is its definition, the engine's first check reads the signal, and every turn keeps a set
signal, a fault setting it. -/
theorem stopSignalIsMonotonic : Obligations.StopSignalIsMonotonic := by
  unfold Obligations.StopSignalIsMonotonic
  refine fun s => ⟨rfl, step_of_requestStop, fun t h hs => ?_, fun hr hs => ⟨_, State.engineStep_stop hr hs, rfl⟩⟩
  obtain ⟨-, e⟩ | ⟨-, e⟩ | ⟨keys, -, e⟩ | ⟨-, e⟩ := step_cases s
  all_goals rw [e] at h
  · obtain ⟨-, -, hstop⟩ := State.engineStep_keeps h
    exact hstop hs
  · cases h; exact (State.tick_stop s.afterTurn).trans hs
  · cases h; exact hs
  · cases h; rfl

/-- Settles O18: the fault is raised on the state before the step, and a halted core with `stop` set and `sound` clear has
nothing left to write but the keys and the schedule. -/
theorem aFaultIsPreciseAndFatal : Obligations.AFaultIsPreciseAndFatal := by
  unfold Obligations.AFaultIsPreciseAndFatal
  intro s t kind p w hr h ht
  obtain ⟨rfl, hnone, hword⟩ := State.engineStep_fault hr h ht
  refine ⟨rfl, hnone, hword, fun u hu => ?_⟩
  obtain rfl | ⟨keys, -, rfl⟩ | ⟨-, rfl⟩ := step_halted ht hu
  · rfl
  · rfl
  · rfl

/-- Settles O19: the engine's turn and a tick do nothing to a halted core, the other two turns write what is listed. -/
theorem haltedIsFinal : Obligations.HaltedIsFinal := by
  unfold Obligations.HaltedIsFinal
  intro s t r hr h
  obtain rfl | ⟨keys, hn, rfl⟩ | ⟨hn, rfl⟩ := step_halted hr h
  · exact ⟨rfl, fun _ => rfl⟩
  · exact ⟨rfl, fun hturn => by simp [hn] at hturn⟩
  · exact ⟨rfl, fun hturn => by simp [hn] at hturn⟩

/-- Settles O20: of all that a step can do to a running core, only the stop check and a fault halt it. -/
theorem aRunEndsOnlyByTheStopCheckOrAFault : Obligations.ARunEndsOnlyByTheStopCheckOrAFault := by
  unfold Obligations.ARunEndsOnlyByTheStopCheckOrAFault
  intro s t hr h ht
  obtain ⟨i, ⟨⟨hn, -, hs, -⟩, -⟩, he⟩ | ⟨hn, -, hend⟩ | ⟨-, hrun, -⟩ | ⟨-, rfl⟩ | ⟨keys, -, rfl⟩ | ⟨-, rfl⟩ := step_next h
  · obtain hf | ⟨kind, -, -, rfl⟩ := exec_next he
    · obtain ⟨hrun, -⟩ := hf.status
      exact absurd (hrun.trans hr) ht
    · exact ⟨hn, .inr ⟨hs, kind, _, rfl⟩⟩
  · obtain ⟨hs, rfl⟩ | ⟨hs, -, rfl⟩ | ⟨hs, -, rfl⟩ := hend
    · exact ⟨hn, .inl ⟨hs, rfl⟩⟩
    · exact ⟨hn, .inr ⟨hs, _, _, rfl⟩⟩
    · exact ⟨hn, .inr ⟨hs, _, _, rfl⟩⟩
  · exact absurd hr hrun
  · exact absurd ((State.tick_run s.afterTurn).trans hr) ht
  · exact absurd hr ht
  · exact absurd hr ht

/-- Settles O21: a tick of a running core counts both timers down; of a halted one it is nothing. -/
theorem tickCountsBothTimersDown : Obligations.TickCountsBothTimersDown := by
  unfold Obligations.TickCountsBothTimersDown
  intro s hn
  exact ⟨_, step_of_tick hn,
    fun hr => ⟨State.tick_DT_toNat (s := s.afterTurn) hr, State.tick_ST_toNat (s := s.afterTurn) hr,
      State.tick_sound_iff (s := s.afterTurn) hr, State.tick_eq _⟩,
    fun r hr => State.tick_halted s.afterTurn hr⟩

/-- Settles O22: by induction over the ticks, each of which leaves the core running. -/
theorem manyTicksReachZeroAndStay : Obligations.ManyTicksReachZeroAndStay := by
  unfold Obligations.ManyTicksReachZeroAndStay
  intro n s hr
  refine ⟨State.ticks_DT_toNat hr n, State.ticks_ST_toNat hr n, fun hn => ?_, State.ticks_eq s n⟩
  obtain ⟨m, rfl⟩ := Nat.exists_eq_add_one_of_ne_zero (Nat.ne_of_gt hn)
  exact State.ticks_sound_iff hr m

/-- Settles O60: the key source's turn is the write of the matrix, and every other turn keeps it. -/
theorem theKeySourceSetsTheMatrixAndNothingElseDoes : Obligations.TheKeySourceSetsTheMatrixAndNothingElseDoes := by
  unfold Obligations.TheKeySourceSetsTheMatrixAndNothingElseDoes
  refine fun s => ⟨fun keys => step_of_setKeys, fun t h hn => ?_⟩
  obtain ⟨-, e⟩ | ⟨-, e⟩ | ⟨keys, hk, -⟩ | ⟨-, e⟩ := step_cases s
  · rw [e] at h
    obtain ⟨hkeys, -⟩ := State.engineStep_keeps h
    exact hkeys
  · rw [e] at h; cases h; exact State.tick_keys s.afterTurn
  · exact absurd hk (hn keys)
  · rw [e] at h; cases h; rfl

end Sys2Proof.Machine
end

section
/-!
PROOFS. What a step may write, piece by piece: which instructions write each piece (10_state.md section 5, 20_memory.md
section 1), what every other step leaves unchanged; then the statements about who writes the timers, the display, `I`, the
stack and memory, and who reads the keys and the sound timer.
-/

namespace Sys2Proof.Machine

variable {s t : State}

/-! ### The instructions that write a piece of state -/

theorem writes_display {i : Instr} (h : (Instr.writes s i).display = true) : i = .cls ∨ ∃ x y n, i = .drw x y n := by
  cases i with
  | cls => exact .inl rfl
  | drw x y n => exact .inr ⟨x, y, n, rfl⟩
  | _ => cases h

theorem writes_index {i : Instr} (h : (Instr.writes s i).index = true) :
    (∃ nnn, i = .ldI nnn) ∨ (∃ x, i = .addI x) ∨ ∃ x, i = .ldF x := by
  cases i with
  | ldI nnn => exact .inl ⟨nnn, rfl⟩
  | addI x => exact .inr (.inl ⟨x, rfl⟩)
  | ldF x => exact .inr (.inr ⟨x, rfl⟩)
  | _ => cases h

theorem writes_stack {i : Instr} (h : (Instr.writes s i).stack = true) : (∃ nnn, i = .call nnn) ∨ i = .ret := by
  cases i with
  | call nnn => exact .inl ⟨nnn, rfl⟩
  | ret => exact .inr rfl
  | _ => cases h

theorem writes_delay {i : Instr} (h : (Instr.writes s i).delay = true) : ∃ x, i = .ldDtVx x := by
  cases i with
  | ldDtVx x => exact ⟨x, rfl⟩
  | _ => cases h

theorem writes_soundTimer {i : Instr} (h : (Instr.writes s i).soundTimer = true) : ∃ x, i = .ldStVx x := by
  cases i with
  | ldStVx x => exact ⟨x, rfl⟩
  | _ => cases h

theorem writes_bytes {i : Instr} {a : Nat} (h : a ∈ (Instr.writes s i).bytes) :
    (∃ x, i = .ldB x) ∨ ∃ x, i = .storeRegs x := by
  cases i with
  | ldB x => exact .inl ⟨x, rfl⟩
  | storeRegs x => exact .inr ⟨x, rfl⟩
  | _ => cases h

/-- A return keeps the stack's slots (10_state.md R41). -/
theorem exec_ret_stack (h : exec .ret s = .next t) : t.stack = s.stack := by
  by_cases h0 : s.sp = 0
  · rw [exec_ret_of_empty h0] at h; cases h; rfl
  · cases ha : s.stack[s.sp - 1]? with
    | none => rw [exec_ret_of_no_slot h0 ha] at h; cases h
    | some a => rw [exec_ret_of_slot h0 ha] at h; cases h; rfl

/-! ### Steps, by what they write -/

/-- A step executes an instruction within its effect, or writes nothing but timers, status, keys and the schedule. -/
theorem step_writes (h : step s = .next t) :
    (∃ i, s.Executes i ∧ exec i s.afterTurn = .next t ∧ State.Frame (Instr.writes s.afterTurn i) s.afterTurn t) ∨
    t = { s with DT := t.DT, ST := t.ST, run := t.run, stop := t.stop, sound := t.sound, keys := t.keys,
                 turns := t.turns } := by
  obtain ⟨i, hi, he⟩ | ⟨-, -, hend⟩ | ⟨-, -, rfl⟩ | ⟨-, rfl⟩ | ⟨keys, -, rfl⟩ | ⟨-, rfl⟩ := step_next h
  · obtain hf | ⟨_, -, -, rfl⟩ := exec_next he
    · exact .inl ⟨i, hi, he, hf⟩
    · exact .inr rfl
  · obtain ⟨-, rfl⟩ | ⟨-, -, rfl⟩ | ⟨-, -, rfl⟩ := hend
    · exact .inr rfl
    · exact .inr rfl
    · exact .inr rfl
  · exact .inr rfl
  · rw [State.tick_eq]; exact .inr rfl
  · exact .inr rfl
  · exact .inr rfl

/-- A step executes an instruction within its effect, is the tick of a running core, or keeps both timers; then it writes
the sound output only as a stop request or by ending the run. -/
theorem step_timers (h : step s = .next t) :
    (∃ i, s.Executes i ∧ State.Frame (Instr.writes s.afterTurn i) s.afterTurn t) ∨
    (s.nextTurn = .tick ∧ s.run = .running) ∨
    (t.DT = s.DT ∧ t.ST = s.ST ∧ (t.sound = s.sound ∨ s.nextTurn = .requestStop ∨ t.run ≠ s.run)) := by
  obtain ⟨i, hi, he⟩ | ⟨-, hr, hend⟩ | ⟨-, -, rfl⟩ | ⟨hn, rfl⟩ | ⟨keys, -, rfl⟩ | ⟨hn, rfl⟩ := step_next h
  · obtain hf | ⟨_, -, -, rfl⟩ := exec_next he
    · exact .inl ⟨i, hi, hf⟩
    · obtain ⟨⟨-, hr, -⟩, -⟩ := hi
      exact .inr (.inr ⟨rfl, rfl, .inr (.inr (by simp [hr]))⟩)
  · obtain ⟨-, rfl⟩ | ⟨-, -, rfl⟩ | ⟨-, -, rfl⟩ := hend
    · exact .inr (.inr ⟨rfl, rfl, .inl rfl⟩)
    · exact .inr (.inr ⟨rfl, rfl, .inr (.inr (by simp [hr]))⟩)
    · exact .inr (.inr ⟨rfl, rfl, .inr (.inr (by simp [hr]))⟩)
  · exact .inr (.inr ⟨rfl, rfl, .inl rfl⟩)
  · cases hr : s.run with
    | running => exact .inr (.inl ⟨hn, rfl⟩)
    | halted r => rw [State.tick_halted s.afterTurn hr]; exact .inr (.inr ⟨rfl, rfl, .inl rfl⟩)
  · exact .inr (.inr ⟨rfl, rfl, .inl rfl⟩)
  · exact .inr (.inr ⟨rfl, rfl, .inr (.inl hn)⟩)

/-! ### Stores and loads under a change they do not see -/

/-- A store through `I` commutes with any change of the state that every single write commutes with. -/
theorem State.storeBytes_comm {f : State → State} (hf : ∀ u a b, (f u).writeByte a b = f (u.writeByte a b))
    (s : State) (base : Word) (k : Nat) (bs : List Byte) :
    (f s).storeBytes base k bs = f (s.storeBytes base k bs) := by
  induction bs generalizing s k with
  | nil => rfl
  | cons b rest ih => rw [State.storeBytes, State.storeBytes, hf, ih]

theorem State.loadUpTo_comm {f : State → State} (hf : ∀ u r b, (f u).setV r b = f (u.setV r b))
    (hread : ∀ u a, (f u).readByte a = u.readByte a) (s : State) (base : Word) (x : Reg) :
    (f s).loadUpTo base x = f (s.loadUpTo base x) := by
  simp only [State.loadUpTo, hread]
  generalize List.range (x.val + 1) = ks
  have fold_comm : ∀ u, ks.foldl (fun v k => v.setV (Fin.ofNat 16 k) (s.readByte (effAddr base k))) (f u) =
      f (ks.foldl (fun v k => v.setV (Fin.ofNat 16 k) (s.readByte (effAddr base k))) u) := by
    induction ks with
    | nil => exact fun u => rfl
    | cons k ks ih => intro u; rw [List.foldl_cons, List.foldl_cons, hf, ih]
  exact fold_comm s

/-- The state with other keys, or another sound timer, or both. -/
def State.override (keys : Option Keys) (st : Option Byte) (s : State) : State :=
  { s with keys := keys.getD s.keys, ST := st.getD s.ST }

/-- An instruction commutes with a change of the keys unless it samples them (10_state.md R48), and with a change of the
sound timer unless it writes it (R42). -/
theorem exec_override {i : Instr} {keys : Option Keys} {st : Option Byte}
    (hkeys : keys = none ∨ ∀ x, i ≠ .skp x ∧ i ≠ .sknp x ∧ i ≠ .ldVxK x) (hst : st = none ∨ ∀ x, i ≠ .ldStVx x)
    (s : State) : exec i (s.override keys st) = mapNext (State.override keys st) (exec i s) := by
  cases i with
  | skp x =>
    obtain rfl := hkeys.resolve_right fun h => (h x).1 rfl
    by_cases hk : (s.getV x).toNat < 16
    · rw [exec_skp_of_key hk, exec_skp_of_key (s := s.override none st) hk]; rfl
    · rw [exec_skp_of_no_key hk, exec_skp_of_no_key (s := s.override none st) hk]; rfl
  | sknp x =>
    obtain rfl := hkeys.resolve_right fun h => (h x).2.1 rfl
    by_cases hk : (s.getV x).toNat < 16
    · rw [exec_sknp_of_key hk, exec_sknp_of_key (s := s.override none st) hk]; rfl
    · rw [exec_sknp_of_no_key hk, exec_sknp_of_no_key (s := s.override none st) hk]; rfl
  | ldVxK x =>
    obtain rfl := hkeys.resolve_right fun h => (h x).2.2 rfl
    cases hk : lowestKey s.keys with
    | none => rw [exec_ldVxK_of_none x hk, exec_ldVxK_of_none (s := s.override none st) x hk]; rfl
    | some k => rw [exec_ldVxK_of_lowest x hk, exec_ldVxK_of_lowest (s := s.override none st) x hk]; rfl
  | ldStVx x =>
    obtain rfl := hst.resolve_right fun h => h x rfl
    rfl
  | ret =>
    by_cases h0 : s.sp = 0
    · rw [exec_ret_of_empty h0, exec_ret_of_empty (s := s.override keys st) h0]; rfl
    · cases ha : s.stack[s.sp - 1]? with
      | none => rw [exec_ret_of_no_slot h0 ha, exec_ret_of_no_slot (s := s.override keys st) h0 ha]; rfl
      | some a => rw [exec_ret_of_slot h0 ha, exec_ret_of_slot (s := s.override keys st) h0 ha]; rfl
  | call nnn =>
    by_cases hfull : s.sp = s.params.stackCapacity
    · rw [exec_call_of_full nnn hfull, exec_call_of_full (s := s.override keys st) nnn hfull]; rfl
    · by_cases hlt : s.sp < s.stack.length
      · rw [exec_call_of_room nnn hfull hlt, exec_call_of_room (s := s.override keys st) nnn hfull hlt]; rfl
      · rw [exec_call_of_no_slot nnn hfull hlt, exec_call_of_no_slot (s := s.override keys st) nnn hfull hlt]; rfl
  | storeRegs x =>
    have h := State.storeBytes_comm (f := State.override keys st) (fun _ _ _ => rfl) s s.I 0 (s.regsUpTo x)
    exact congrArg (fun u => Host.Outcome.next u.advance) h
  | loadRegs x =>
    have h := State.loadUpTo_comm (f := State.override keys st) (fun _ _ _ => rfl) (fun _ _ => rfl) s s.I x
    exact congrArg (fun u => Host.Outcome.next u.advance) h
  | _ => rfl

/-! ### The statements -/

/-- Settles O23: an executed instruction writes its own timer and no sound output. -/
theorem timersAreWrittenOnlyByTheirInstructionsAndTicks :
    Obligations.TimersAreWrittenOnlyByTheirInstructionsAndTicks := by
  unfold Obligations.TimersAreWrittenOnlyByTheirInstructionsAndTicks
  intro s t h
  obtain ⟨i, hi, hf⟩ | htick | ⟨hDT, hST, hsound⟩ := step_timers h
  · refine ⟨fun hne => ?_, fun hne => ?_, fun hne => ?_⟩
    · obtain ⟨x, rfl⟩ := writes_delay (Bool.of_not_eq_false fun hw => hne (hf.delay hw))
      exact .inr ⟨x, hi⟩
    · obtain ⟨x, rfl⟩ := writes_soundTimer (Bool.of_not_eq_false fun hw => hne (hf.soundTimer hw))
      exact .inr ⟨x, hi⟩
    · obtain ⟨-, -, hsound⟩ := hf.status
      exact absurd hsound hne
  · exact ⟨fun _ => .inl htick, fun _ => .inl htick, fun _ => .inl htick⟩
  · exact ⟨fun hne => absurd hDT hne, fun hne => absurd hST hne, fun hne => .inr (hsound.resolve_left hne)⟩

/-- Settles O26: only an executed instruction writes the display, and the two that do publish what they leave. -/
theorem frameBufferIsWrittenOnlyByClsAndDrw : Obligations.FrameBufferIsWrittenOnlyByClsAndDrw := by
  unfold Obligations.FrameBufferIsWrittenOnlyByClsAndDrw
  intro s t h hne
  obtain ⟨i, hi, he, hf⟩ | ht := step_writes h
  · have hw : (Instr.writes s.afterTurn i).display = true := Bool.of_not_eq_false fun hw => by
      obtain ⟨hFB, hframes⟩ := hf.display hw
      exact hne.elim (· hFB) (· hframes)
    obtain rfl | ⟨x, y, n, rfl⟩ := writes_display hw
    · cases he; exact ⟨.inl hi, rfl⟩
    · cases he; exact ⟨.inr ⟨x, y, n, hi⟩, rfl⟩
  · have hFB := congrArg State.FB ht
    have hframes := congrArg State.frames ht
    exact (hne.elim (· hFB) (· hframes)).elim

/-- Settles O35: only an executed instruction writes these, and a return keeps the slots. -/
theorem indexAndStackAreWrittenOnlyByTheirInstructions :
    Obligations.IndexAndStackAreWrittenOnlyByTheirInstructions := by
  unfold Obligations.IndexAndStackAreWrittenOnlyByTheirInstructions
  intro s t h
  obtain ⟨i, hi, he, hf⟩ | ht := step_writes h
  · refine ⟨fun hne => ?_, fun hne => ?_, fun hne => ?_, ?_⟩
    · obtain ⟨nnn, rfl⟩ | ⟨x, rfl⟩ | ⟨x, rfl⟩ := writes_index (Bool.of_not_eq_false fun hw => hne (hf.index hw))
      · exact .inl ⟨nnn, hi⟩
      · exact .inr (.inl ⟨x, hi⟩)
      · exact .inr (.inr ⟨x, hi⟩)
    · obtain ⟨nnn, rfl⟩ | rfl := writes_stack (Bool.of_not_eq_false fun hw => hne (hf.stack hw).1)
      · exact ⟨nnn, hi⟩
      · exact absurd (exec_ret_stack he) hne
    · obtain ⟨nnn, rfl⟩ | rfl := writes_stack (Bool.of_not_eq_false fun hw => hne (hf.stack hw).2)
      · exact .inl ⟨nnn, hi⟩
      · exact .inr hi
    · obtain ⟨-, -, hparams⟩ := hf.inputs
      exact hparams
  · have hparams := congrArg State.params ht
    exact ⟨fun hne => absurd (congrArg State.I ht) hne, fun hne => absurd (congrArg State.stack ht) hne,
      fun hne => absurd (congrArg State.sp ht) hne, hparams⟩

/-- Settles O51: a byte that reads differently is listed by the executed instruction's effect. -/
theorem memoryIsWrittenOnlyByStores : Obligations.MemoryIsWrittenOnlyByStores := by
  unfold Obligations.MemoryIsWrittenOnlyByStores
  rintro s t h ⟨a, hne⟩
  obtain ⟨i, hi, -, hf⟩ | ht := step_writes h
  · obtain ⟨x, rfl⟩ | ⟨x, rfl⟩ := writes_bytes (Decidable.of_not_not fun hw => hne (hf.bytes a hw))
    · exact .inl ⟨x, hi⟩
    · exact .inr ⟨x, hi⟩
  · exact absurd (congrArg (State.readByte · a) ht) hne

/-- Settles O59: a change of the keys alone, or of the sound timer alone, is an override. -/
theorem keysAndSoundTimerAreReadOnlyWhereTheSpecSays : Obligations.KeysAndSoundTimerAreReadOnlyWhereTheSpecSays := by
  unfold Obligations.KeysAndSoundTimerAreReadOnlyWhereTheSpecSays
  exact fun i s => ⟨fun keys hi => exec_override (keys := some keys) (st := none) (.inr hi) (.inl rfl) s,
    fun b hi => exec_override (keys := none) (st := some b) (.inl rfl) (.inr hi) s⟩

end Sys2Proof.Machine
end

section
/-!
PROOFS. The display instructions of 40_display.md: the drawn frame buffer and its collision in the terms of the statement,
the byte a flag is held as; then the statements about clearing and drawing.
-/

namespace Sys2Proof.Machine

/-! ### Flags (10_state.md R37) -/

theorem flagByte_eq_one_iff (c : Bool) : flagByte c = 1 ↔ c = true := by cases c <;> decide

theorem flagByte_one_or_zero (c : Bool) : flagByte c = 1 ∨ flagByte c = 0 := by cases c <;> decide

theorem flagByte_decide (p : Prop) [Decidable p] : flagByte (decide p) = if p then 1 else 0 := by simp [flagByte]

/-! ### Drawing (40_display.md R102) -/

theorem State.drawn_cell (s : State) (x y : Reg) {n : Nat} (hn : n ≤ 15) (r : Fin 32) (c : Fin 64) :
    FrameBuffer.cell (s.drawn x y n).fb r c = (FrameBuffer.cell s.FB r c ^^ s.spriteLit x y n r c) := by
  obtain ⟨hcell, -⟩ := Canvas.drawRows_spec ⟨s.FB, false⟩ s.spriteRow (s.getV x).toNat (s.getV y).toNat n (by omega)
  rw [State.spriteLit_eq]
  exact hcell r c

theorem State.drawn_collision_iff (s : State) (x y : Reg) {n : Nat} (hn : n ≤ 15) :
    (s.drawn x y n).collision = true ↔ ∃ r c, s.spriteLit x y n r c = true ∧ FrameBuffer.cell s.FB r c = true := by
  obtain ⟨-, hcol⟩ := Canvas.drawRows_spec ⟨s.FB, false⟩ s.spriteRow (s.getV x).toNat (s.getV y).toNat n (by omega)
  rw [State.drawn, hcol]
  simp [State.spriteLit_eq]

theorem exec_cls (s : State) : exec .cls s = .next (s.showFrame FrameBuffer.blank).advance := rfl

theorem exec_drw (x y : Reg) (n : Nat) (s : State) :
    exec (.drw x y n) s =
      .next ((s.setV VF (flagByte (s.drawn x y n).collision)).showFrame (s.drawn x y n).fb).advance := rfl

/-- The row count as the encoder places it, a nibble widened to a word. -/
theorem encode_drw (x y : Reg) {n : Nat} (hn : n ≤ 15) :
    0xD000#16 ||| placeX x ||| placeY y ||| BitVec.ofNat 16 n = encode (.drw x y n) := by
  have hcount : BitVec.ofNat 16 n = (BitVec.ofNat 4 n).setWidth 16 := by
    apply BitVec.eq_of_toNat_eq
    simp only [BitVec.toNat_setWidth, BitVec.toNat_ofNat]
    omega
  rw [hcount]
  rfl

/-! ### The statements -/

/-- Settles O24: the meaning shows the blank frame buffer. -/
theorem clsClearsAndPublishes : Obligations.ClsClearsAndPublishes := by
  unfold Obligations.ClsClearsAndPublishes
  exact fun s => ⟨decodeWord_encode (i := .cls) rfl, _, exec_cls s, FrameBuffer.cell_blank, rfl, rfl,
    s.frame_showFrame _⟩

/-- Settles O25: the meaning shows the drawn frame buffer with its collision in VF, and drawing is known cell by cell. -/
theorem drwXorsTheWrappedSpriteAndReportsCollision : Obligations.DrwXorsTheWrappedSpriteAndReportsCollision := by
  unfold Obligations.DrwXorsTheWrappedSpriteAndReportsCollision
  intro x y n s hn
  rw [encode_drw x y hn]
  refine ⟨decodeWord_encode (decide_eq_true hn), _, exec_drw x y n s, s.drawn_cell x y hn, ?_, ?_, rfl, rfl,
    s.frame_drw _ _⟩
  · simpa using flagByte_one_or_zero (s.drawn x y n).collision
  · rw [← s.drawn_collision_iff x y hn, ← flagByte_eq_one_iff]
    simp

end Sys2Proof.Machine
end

section
/-!
PROOFS. Calls, returns and register skips of 41_control_flow.md: the frame of a stack write, what the decoder says of a
non-zero low nibble, then the statements.
-/

namespace Sys2Proof.Machine

/-- Writing the stack, `sp` and `pc` changes nothing else. -/
theorem State.frame_withStack (s : State) (st : List Word) (n : Nat) (a : Word) :
    State.Frame { stack := true } s ({ s with stack := st, sp := n }.setPc a) :=
  { State.frame_refl s _ with stack := fun h => nomatch h }

theorem exec_seReg (x y : Reg) (s : State) :
    exec (.seReg x y) s = .next (s.skipIf (decide (s.getV x = s.getV y))) := rfl

theorem exec_sneReg (x y : Reg) (s : State) :
    exec (.sneReg x y) s = .next (s.skipIf (decide (s.getV x ≠ s.getV y))) := rfl

/-- Families 5 and 9 have no instruction with a non-zero low nibble (41_control_flow.md R131). -/
theorem decodeWord_unsupported_of_nibble {base : Word} (hop : opField base = 0x5#4 ∨ opField base = 0x9#4)
    (hbase : nField base = 0) (x y : Reg) {n : BitVec 4} (hn : n ≠ 0) :
    ∃ why, decodeWord (base ||| placeX x ||| placeY y ||| n.setWidth 16) = .unsupported why := by
  rw [decodeWord_unsupported_iff, opField_or_x_y_n, nField_or_x_y_n x y n hbase]
  obtain h | h := hop
  · exact .inr (.inl ⟨h, hn⟩)
  · exact .inr (.inr (.inr (.inl ⟨h, hn⟩)))

/-! ### The statements -/

/-- Settles O27: the meaning lowers `sp` and jumps two past the slot below it. -/
theorem retReturnsTwoBytesPastTheCall : Obligations.RetReturnsTwoBytesPastTheCall := by
  unfold Obligations.RetReturnsTwoBytesPastTheCall
  intro s a h0 ha
  exact ⟨decodeWord_encode (i := .ret) rfl, _, exec_ret_of_slot h0 ha, rfl, rfl, rfl, s.frame_withStack _ _ _⟩

/-- Settles O28: the meaning writes the slot at `sp` and no other. -/
theorem callPushesItsOwnAddressAndJumps : Obligations.CallPushesItsOwnAddressAndJumps := by
  unfold Obligations.CallPushesItsOwnAddressAndJumps
  intro nnn s hlen hsp
  have hroom : s.sp < s.stack.length := by omega
  exact ⟨decodeWord_encode (i := .call nnn) rfl, _, exec_call_of_room nnn (Nat.ne_of_lt hsp) hroom,
    List.getElem?_set_self hroom, fun k hk => List.getElem?_set_ne (Ne.symm hk), rfl, addrOf_toNat nnn,
    s.frame_withStack _ _ _⟩

/-- Settles O29: the check fails before any write, and the fault records the encoding. -/
theorem fullStackFaultsCallAndEmptyStackFaultsRet : Obligations.FullStackFaultsCallAndEmptyStackFaultsRet := by
  unfold Obligations.FullStackFaultsCallAndEmptyStackFaultsRet
  exact fun s => ⟨fun nnn h => exec_call_of_full nnn h, fun h => exec_ret_of_empty h⟩

/-- Settles O30: the slot the return reads is the one the call wrote. -/
theorem returnUndoesTheCall : Obligations.ReturnUndoesTheCall := by
  unfold Obligations.ReturnUndoesTheCall
  intro nnn s u hlen hsp
  have hroom : s.sp < s.stack.length := by omega
  refine ⟨_, exec_call_of_room nnn (Nat.ne_of_lt hsp) hroom, fun hstack husp => ?_⟩
  have husp' : u.sp = s.sp + 1 := husp
  have hslot : u.stack[u.sp - 1]? = some s.pc := by
    rw [hstack, husp']
    exact List.getElem?_set_self hroom
  refine ⟨_, exec_ret_of_slot (by omega) hslot, rfl, ?_⟩
  show u.sp - 1 = s.sp
  omega

/-- Settles O33: both skips are `skipIf` on the comparison of two bytes, and a low nibble leaves the family's one
instruction. -/
theorem skipsCompareTwoRegisters : Obligations.SkipsCompareTwoRegisters := by
  unfold Obligations.SkipsCompareTwoRegisters
  intro x y s
  refine ⟨⟨decodeWord_encode (i := .seReg x y) rfl,
      fun n hn => decodeWord_unsupported_of_nibble (.inl (by decide)) (by decide) x y hn,
      _, exec_seReg x y s, ?_, s.frame_skipIf _⟩,
    ⟨decodeWord_encode (i := .sneReg x y) rfl,
      fun n hn => decodeWord_unsupported_of_nibble (.inr (by decide)) (by decide) x y hn,
      _, exec_sneReg x y s, ?_, s.frame_skipIf _⟩⟩
  · simp [BitVec.toNat_inj]
  · simp [BitVec.toNat_inj]

end Sys2Proof.Machine
end

section
/-!
PROOFS. The arithmetic of 42_alu.md that writes VF, the logic that keeps it, and the random byte: the values of the results
and flags as numbers, then the statements.
-/

namespace Sys2Proof.Machine

variable (s : State)

/-! ### The meanings -/

theorem exec_orReg (x y : Reg) : exec (.orReg x y) s = .next (s.setV x (s.getV x ||| s.getV y)).advance := rfl

theorem exec_andReg (x y : Reg) : exec (.andReg x y) s = .next (s.setV x (s.getV x &&& s.getV y)).advance := rfl

theorem exec_xorReg (x y : Reg) : exec (.xorReg x y) s = .next (s.setV x (s.getV x ^^^ s.getV y)).advance := rfl

theorem exec_addReg (x y : Reg) : exec (.addReg x y) s =
    .next (s.setFlagThen (carryFlag (s.getV x) (s.getV y)) x (s.getV x + s.getV y)).advance := rfl

theorem exec_subReg (x y : Reg) : exec (.subReg x y) s =
    .next (s.setFlagThen (greaterFlag (s.getV x) (s.getV y)) x (s.getV x - s.getV y)).advance := rfl

theorem exec_subnReg (x y : Reg) : exec (.subnReg x y) s =
    .next (s.setFlagThen (greaterFlag (s.getV y) (s.getV x)) x (s.getV y - s.getV x)).advance := rfl

theorem exec_shrReg {x y r : Reg} (h : shiftReg s.params x y = r) : exec (.shrReg x y) s =
    .next (s.setFlagThen (bit0Flag (s.getV r)) x (s.getV r >>> 1)).advance := by subst h; rfl

theorem exec_shlReg {x y r : Reg} (h : shiftReg s.params x y = r) : exec (.shlReg x y) s =
    .next (s.setFlagThen (bit7Flag (s.getV r)) x (s.getV r <<< 1)).advance := by subst h; rfl

theorem exec_rnd (x : Reg) (nn : Byte) :
    exec (.rnd x nn) s = .next (s.afterDraw.setV x (s.randomByte &&& nn)).advance := rfl

/-! ### Results and flags as numbers -/

theorem State.getV_setFlagThen_advance (f : Byte) (x : Reg) (b : Byte) :
    (s.setFlagThen f x b).advance.getV x = b := by
  rw [State.advance_getV, State.getV_setFlagThen_dst]

theorem State.getV_VF_setFlagThen_advance (f : Byte) {x : Reg} (b : Byte) (h : x ≠ VF) :
    (s.setFlagThen f x b).advance.getV VF = f := by
  rw [State.advance_getV, State.getV_setFlagThen_VF s f b h]

theorem carryFlag_eq (a b : Byte) : carryFlag a b = if a.toNat + b.toNat > 255 then 1 else 0 := flagByte_decide _

theorem greaterFlag_eq (a b : Byte) : greaterFlag a b = if a.toNat > b.toNat then 1 else 0 := flagByte_decide _

theorem byte_sub_toNat (a b : Byte) : (a - b).toNat = (256 + a.toNat - b.toNat) % 256 := by
  have hb := b.isLt
  rw [BitVec.toNat_sub]
  omega

/-- A bit held as a flag is that digit of the byte. -/
theorem flagByte_getLsbD_toNat (v : Byte) (i : Nat) : (flagByte (v.getLsbD i)).toNat = v.toNat / 2 ^ i % 2 := by
  rw [BitVec.getLsbD, Nat.testBit_eq_decide_div_mod_eq, flagByte_decide]
  split
  · next h => rw [h]; rfl
  · next h => rw [Nat.mod_two_ne_one.1 h]; rfl

theorem bit0Flag_toNat (v : Byte) : (bit0Flag v).toNat = v.toNat % 2 := by
  rw [bit0Flag, flagByte_getLsbD_toNat]
  omega

theorem bit7Flag_toNat (v : Byte) : (bit7Flag v).toNat = v.toNat / 128 := by
  have hv := v.isLt
  rw [bit7Flag, flagByte_getLsbD_toNat]
  omega

theorem shiftReg_eq (p : Params) (x y : Reg) : shiftReg p x y = if p.shiftSource = .x then x else y := by
  unfold shiftReg
  cases p.shiftSource with
  | x => rfl
  | y => rfl

/-! ### The statements -/

/-- Settles O39: the meanings are one write of the bitwise result to `V[x]`. -/
theorem logicCombinesBitsAndKeepsVF : Obligations.LogicCombinesBitsAndKeepsVF := by
  unfold Obligations.LogicCombinesBitsAndKeepsVF
  intro x y s
  refine ⟨⟨decodeWord_encode (i := .orReg x y) rfl, _, exec_orReg s x y, rfl, s.frame_setV x _, fun i => ?_⟩,
    ⟨decodeWord_encode (i := .andReg x y) rfl, _, exec_andReg s x y, rfl, s.frame_setV x _, fun i => ?_⟩,
    ⟨decodeWord_encode (i := .xorReg x y) rfl, _, exec_xorReg s x y, rfl, s.frame_setV x _, fun i => ?_⟩⟩
  · rw [State.getV_setV_advance, BitVec.getLsbD_or]
  · rw [State.getV_setV_advance, BitVec.getLsbD_and]
  · rw [State.getV_setV_advance, BitVec.getLsbD_xor]

/-- Settles O40: the flag is the carry of the operands as they were. -/
theorem addRegSetsCarryThenResult : Obligations.AddRegSetsCarryThenResult := by
  unfold Obligations.AddRegSetsCarryThenResult
  intro x y s
  refine ⟨decodeWord_encode (i := .addReg x y) rfl, _, exec_addReg s x y, ?_, fun hx => ?_, rfl,
    s.frame_setFlagThen _ _ _⟩
  · rw [State.getV_setFlagThen_advance, BitVec.toNat_add]
  · rw [State.getV_VF_setFlagThen_advance s _ _ hx, carryFlag_eq]

/-- Settles O41: the flag is the strict comparison of the operands as they were. -/
theorem subRegSetsStrictFlagThenDifference : Obligations.SubRegSetsStrictFlagThenDifference := by
  unfold Obligations.SubRegSetsStrictFlagThenDifference
  intro x y s
  refine ⟨decodeWord_encode (i := .subReg x y) rfl, _, exec_subReg s x y, ?_, fun hx => ?_, rfl,
    s.frame_setFlagThen _ _ _⟩
  · rw [State.getV_setFlagThen_advance, byte_sub_toNat]
  · rw [State.getV_VF_setFlagThen_advance s _ _ hx, greaterFlag_eq]

/-- Settles O42: as for SUB, with the operands exchanged. -/
theorem subnRegSetsStrictFlagThenReverseDifference : Obligations.SubnRegSetsStrictFlagThenReverseDifference := by
  unfold Obligations.SubnRegSetsStrictFlagThenReverseDifference
  intro x y s
  refine ⟨decodeWord_encode (i := .subnReg x y) rfl, _, exec_subnReg s x y, ?_, fun hx => ?_, rfl,
    s.frame_setFlagThen _ _ _⟩
  · rw [State.getV_setFlagThen_advance, byte_sub_toNat]
  · rw [State.getV_VF_setFlagThen_advance s _ _ hx, greaterFlag_eq]

/-- Settles O43: both shift the register SHIFT_SOURCE names and keep the bit that leaves it. -/
theorem shiftsMoveOneBitAndKeepItInVF : Obligations.ShiftsMoveOneBitAndKeepItInVF := by
  unfold Obligations.ShiftsMoveOneBitAndKeepItInVF
  intro x y r s hr
  have hsrc : shiftReg s.params x y = r := (shiftReg_eq s.params x y).trans hr.symm
  refine ⟨⟨decodeWord_encode (i := .shrReg x y) rfl, _, exec_shrReg s hsrc, ?_, fun hx => ?_, rfl,
      s.frame_setFlagThen _ _ _⟩,
    ⟨decodeWord_encode (i := .shlReg x y) rfl, _, exec_shlReg s hsrc, ?_, fun hx => ?_, rfl,
      s.frame_setFlagThen _ _ _⟩⟩
  · rw [State.getV_setFlagThen_advance, BitVec.toNat_ushiftRight, Nat.shiftRight_eq_div_pow, pow_one]
  · rw [State.getV_VF_setFlagThen_advance s _ _ hx, bit0Flag_toNat]
  · rw [State.getV_setFlagThen_advance, BitVec.toNat_shiftLeft, Nat.shiftLeft_eq, pow_one]
  · rw [State.getV_VF_setFlagThen_advance s _ _ hx, bit7Flag_toNat]

/-- Settles O44: the draw takes the head of the queue, so a queue of one byte makes that byte the draw. -/
theorem rndMasksOneDrawnByte : Obligations.RndMasksOneDrawnByte := by
  unfold Obligations.RndMasksOneDrawnByte
  intro x nn s
  refine ⟨decodeWord_encode (i := .rnd x nn) rfl,
    ⟨_, s.randomByte, exec_rnd s x nn, State.getV_setV_advance _ x _, fun b rest h => ?_, rfl, rfl, s.frame_rnd x _⟩,
    fun b => ⟨_, exec_rnd { s with rand := [b] } x nn, State.getV_setV_advance _ x _⟩⟩
  simp [State.randomByte, h]

end Sys2Proof.Machine
end

section
/-!
PROOFS. The memory instructions of 43_index_memory.md: the bytes they store and load, how a later fetch sees a stored byte
(20_memory.md R73); then the statements.
-/

namespace Sys2Proof.Machine

variable (s : State)

/-! ### The meanings -/

theorem exec_ldB (x : Reg) :
    exec (.ldB x) s = .next (s.storeBytes s.I 0 (decimalDigits (s.getV x))).advance := rfl

theorem exec_storeRegs (x : Reg) : exec (.storeRegs x) s = .next (s.storeBytes s.I 0 (s.regsUpTo x)).advance := rfl

theorem exec_loadRegs (x : Reg) : exec (.loadRegs x) s = .next (s.loadUpTo s.I x).advance := rfl

/-! ### The bytes stored -/

/-- A byte has at most three decimal digits, so each digit is its own value. -/
theorem decimalDigits_map_toNat (v : Byte) :
    (decimalDigits v).map BitVec.toNat = [v.toNat / 100, v.toNat / 10 % 10, v.toNat % 10] := by
  have hv := v.isLt
  simp only [decimalDigits, List.map_cons, List.map_nil, BitVec.toNat_ofNat, List.cons.injEq, and_true]
  omega

theorem byte_toNat_injective : Function.Injective (BitVec.toNat : Byte → Nat) := fun _ _ => BitVec.eq_of_toNat_eq

/-- After a store through `I`, the `j`-th byte is read at its address. -/
theorem State.storeBytes_advance_readByte {bs : List Byte} (hl : bs.length ≤ 4096) {j : Nat} (hj : j < bs.length) :
    (s.storeBytes s.I 0 bs).advance.readByte ((s.I.toNat + j) % 4096) = bs[j] := by
  rw [State.advance_readByte, State.storeBytes_readByte_mod s bs hl j hj]

theorem State.storeBytes_advance_pc (base : Word) (bs : List Byte) :
    (s.storeBytes base 0 bs).advance.pc = s.pc + 2 := by
  rw [State.storeBytes_eq]
  rfl

theorem State.loadUpTo_advance_pc (base : Word) (x : Reg) : (s.loadUpTo base x).advance.pc = s.pc + 2 := by
  obtain ⟨hload, -⟩ := s.loadUpTo_spec base x
  rw [hload]
  rfl

/-! ### What a fetch sees (20_memory.md R65) -/

theorem State.fetchWord_div : s.fetchWord.toNat / 256 = (s.readByte s.pc.toNat).toNat := by
  have hlo := (s.readByte (s.pc.toNat + 1)).isLt
  rw [State.fetchWord, wordOfBytes_toNat]
  omega

theorem State.fetchWord_mod : s.fetchWord.toNat % 256 = (s.readByte (s.pc.toNat + 1)).toNat := by
  have hlo := (s.readByte (s.pc.toNat + 1)).isLt
  rw [State.fetchWord, wordOfBytes_toNat]
  omega

/-- Both storing instructions store the bytes the statement lists, through `I`, and go on. -/
theorem exec_stores {s : State} {i : Instr} {bs : List Byte}
    (h : (∃ x : Reg, i = .storeRegs x ∧ bs = (List.range (x.val + 1)).map fun k => s.getV (Fin.ofNat 16 k)) ∨
      (∃ x : Reg, i = .ldB x ∧ bs.map BitVec.toNat =
        [(s.getV x).toNat / 100, (s.getV x).toNat / 10 % 10, (s.getV x).toNat % 10])) :
    bs.length ≤ 4096 ∧ exec i s = .next (s.storeBytes s.I 0 bs).advance := by
  obtain ⟨x, rfl, rfl⟩ | ⟨x, rfl, hbs⟩ := h
  · refine ⟨?_, exec_storeRegs s x⟩
    rw [List.length_map, List.length_range]
    omega
  · have hdigits : bs = decimalDigits (s.getV x) :=
      (List.map_injective_iff.2 byte_toNat_injective) (hbs.trans (decimalDigits_map_toNat _).symm)
    subst hdigits
    exact ⟨by simp [decimalDigits], exec_ldB s x⟩

/-! ### The statements -/

/-- Settles O48: the three stored bytes are the decimal digits, at the three addresses past `I`. -/
theorem ldBStoresTheDecimalDigits : Obligations.LdBStoresTheDecimalDigits := by
  unfold Obligations.LdBStoresTheDecimalDigits
  intro x s
  have digits := decimalDigits_map_toNat (s.getV x)
  simp only [decimalDigits, List.map_cons, List.map_nil, List.cons.injEq, and_true] at digits
  obtain ⟨hundreds, tens, ones⟩ := digits
  have stored : ∀ j (hj : j < 3), (s.storeBytes s.I 0 (decimalDigits (s.getV x))).advance.readByte
      ((s.I.toNat + j) % 4096) = (decimalDigits (s.getV x))[j] := fun j hj =>
    s.storeBytes_advance_readByte (by simp [decimalDigits]) hj
  refine ⟨decodeWord_encode (i := .ldB x) rfl, _, exec_ldB s x, ?_, ?_, ?_, s.storeBytes_advance_pc _ _,
    s.frame_storeBytes _ _ fun j hj => ?_⟩
  · exact (congrArg BitVec.toNat (stored 0 (by decide))).trans hundreds
  · exact (congrArg BitVec.toNat (stored 1 (by decide))).trans tens
  · exact (congrArg BitVec.toNat (stored 2 (by decide))).trans ones
  · have hj' : j < 3 := hj
    interval_cases j <;> simp

/-- Settles O49: the bytes stored are the registers up to `x`, in order. -/
theorem storeRegsStoresThroughI : Obligations.StoreRegsStoresThroughI := by
  unfold Obligations.StoreRegsStoresThroughI
  intro x s
  have hlen := s.regsUpTo_length x
  refine ⟨decodeWord_encode (i := .storeRegs x) rfl, _, exec_storeRegs s x, fun k hk => ?_,
    s.storeBytes_advance_pc _ _, s.frame_storeBytes _ _ fun j hj => ?_⟩
  · have hlt : k.val < (s.regsUpTo x).length := by rw [hlen]; exact Nat.lt_succ_of_le hk
    rw [s.storeBytes_advance_readByte (by omega) hlt, State.regsUpTo_getElem, Fin.ofNat_val_eq_self]
  · exact List.mem_map.2 ⟨j, List.mem_range.2 (hlen ▸ hj), rfl⟩

/-- Settles O50: each register up to `x` takes the byte at its address, and the others are kept. -/
theorem loadRegsLoadsThroughI : Obligations.LoadRegsLoadsThroughI := by
  unfold Obligations.LoadRegsLoadsThroughI
  intro x s
  obtain ⟨-, hregs⟩ := s.loadUpTo_spec s.I x
  refine ⟨decodeWord_encode (i := .loadRegs x) rfl, _, exec_loadRegs s x, fun k hk => ?_, s.loadUpTo_advance_pc _ _,
    s.frame_loadUpTo _ _ _ fun r hr => ?_⟩
  · rw [State.advance_getV, hregs, if_pos hk, effAddr_eq]
  · exact List.mem_filter.2 ⟨List.mem_finRange r, decide_eq_true hr⟩

/-- Settles O52: a fetch reads the two bytes at `pc`, and a byte not written since is the one stored. -/
theorem aStoreIsSeenByTheNextFetch : Obligations.AStoreIsSeenByTheNextFetch := by
  unfold Obligations.AStoreIsSeenByTheNextFetch
  intro i s bs hi
  obtain ⟨hlen, he⟩ := exec_stores hi
  refine ⟨_, he, s.storeBytes_advance_pc _ _, fun k hk a u ha hu => ⟨fun hpc => ?_, fun hpc => ?_,
    u.engineStep_runWord⟩⟩
  all_goals rw [ha, s.storeBytes_advance_readByte hlen hk, ← ha] at hu
  · rw [State.fetchWord_div, hpc, hu]
  · rw [State.fetchWord_mod, hpc, hu]

end Sys2Proof.Machine
end

section
/-!
PROOFS. The key and timer instructions of 44_keys_timers.md; then the statements about the key skips, the wait for a key and
the timer moves.
-/

namespace Sys2Proof.Machine

theorem exec_ldVxDt (x : Reg) (s : State) : exec (.ldVxDt x) s = .next (s.setV x s.DT).advance := rfl

theorem exec_ldStVx (x : Reg) (s : State) : exec (.ldStVx x) s = .next (s.setST (s.getV x)).advance := rfl

theorem codeOf_toNat (k : Reg) : (codeOf k).toNat = k.val := by
  have hk := k.isLt
  rw [codeOf, BitVec.toNat_ofNat]
  omega

/-! ### The statements -/

/-- Settles O53: a code of at most 0xF samples its own key. -/
theorem keySkipsFollowTheMatrix : Obligations.KeySkipsFollowTheMatrix := by
  unfold Obligations.KeySkipsFollowTheMatrix
  intro x k s hk
  have hlt : (s.getV x).toNat < 16 := hk ▸ k.isLt
  have hkey : (⟨(s.getV x).toNat, hlt⟩ : Reg) = k := Fin.ext hk
  refine ⟨⟨decodeWord_encode (i := .skp x) rfl, _, exec_skp_of_key hlt, ?_, s.frame_skipIf _⟩,
    ⟨decodeWord_encode (i := .sknp x) rfl, _, exec_sknp_of_key hlt, ?_, s.frame_skipIf _⟩⟩
  · rw [hkey, State.skipIf_pc]
  · rw [hkey, State.skipIf_pc]
    cases s.keys.get k with
    | true => rfl
    | false => rfl

/-- Settles O54: the sampling fails before the skip, and the fault records the encoding. -/
theorem keyCodeAboveFFaults : Obligations.KeyCodeAboveFFaults := by
  unfold Obligations.KeyCodeAboveFFaults
  intro x s h
  exact ⟨exec_skp_of_no_key (by omega), exec_sknp_of_no_key (by omega)⟩

/-- Settles O55: `lowestKey` answers the least pressed key, or none. -/
theorem waitForKeyTakesTheLowestOrHolds : Obligations.WaitForKeyTakesTheLowestOrHolds := by
  unfold Obligations.WaitForKeyTakesTheLowestOrHolds
  intro x s
  refine ⟨decodeWord_encode (i := .ldVxK x) rfl, fun k hk hleast => ?_, fun hnone => ?_⟩
  · have hlow : lowestKey s.keys = some k := (lowestKey_some s.keys k).2 ⟨hk, hleast⟩
    refine ⟨_, exec_ldVxK_of_lowest x hlow, ?_, rfl, s.frame_setV x _⟩
    rw [State.getV_setV_advance, codeOf_toNat]
  · exact exec_ldVxK_of_none x ((lowestKey_none s.keys).2 hnone)

/-- Settles O56: the meaning is one write of `DT` to `V[x]`. -/
theorem ldVxDtReadsTheDelayTimer : Obligations.LdVxDtReadsTheDelayTimer := by
  unfold Obligations.LdVxDtReadsTheDelayTimer
  intro x s
  exact ⟨decodeWord_encode (i := .ldVxDt x) rfl, _, exec_ldVxDt x s, s.getV_setV_advance x _, rfl, s.frame_setV x _⟩

/-- Settles O58: the meaning is one write of `V[x]` to `ST`, from which the next tick sets `sound`. -/
theorem ldStVxSetsTheSoundTimer : Obligations.LdStVxSetsTheSoundTimer := by
  unfold Obligations.LdStVxSetsTheSoundTimer
  intro x s
  exact ⟨decodeWord_encode (i := .ldStVx x) rfl, _, exec_ldStVx x s, rfl, rfl, s.frame_setST _,
    fun hr => State.tick_sound_iff_lt (s := (s.setST (s.getV x)).advance) hr⟩

end Sys2Proof.Machine
end
